-- ==== Sys2Proof/Config.lean ====
section
/-!
DEFINITION. The parameters of AX25ENC (00_scope.md section 4, R5 to R9), as functions of the two open widths and at the
spec's defaults. `BUS_MAP`, the third open parameter, is read by no rule (20_memory.md R67) and by nothing here.
-/

namespace Sys2Proof.Config

/-- `SEQ_W`, the width of NR and NS (00_scope.md R5). DESIGN CHOICE, log entry 1: the spec's default. -/
abbrev seqW : Nat := 8

/-- `PAYLEN_W`, the width of PAYLEN (00_scope.md R6). DESIGN CHOICE, log entry 2: the spec's default. -/
abbrev paylenW : Nat := 9

/-- `PAY_MAX` for a PAYLEN of `w` bits (00_scope.md R6). -/
abbrev payMaxOf (w : Nat) : Nat := 2 ^ w - 1

/-- `FRM_MAX` for a PAYLEN of `w` bits (00_scope.md R8). -/
abbrev frmMaxOf (w : Nat) : Nat := payMaxOf w + 20

/-- The width of FRMLEN for a PAYLEN of `w` bits: `w + 1`, and 6 where that is smaller (00_scope.md R8). -/
abbrev frmlenWOf (w : Nat) : Nat := max (w + 1) 6

/-- `ID_MAX`, the octets of an identifier buffer; fixed (00_scope.md R7). -/
abbrev idMax : Nat := 15

/-- The octets of the address field; fixed (00_scope.md R9). -/
abbrev addrLen : Nat := 14

/-- The octets of PCALL (10_state.md R34). -/
abbrev callLen : Nat := 6

/-- `PAY_MAX`, the octets of PAYLOAD. -/
abbrev payMax : Nat := payMaxOf paylenW

/-- `FRM_MAX`, the octets of FRAME. -/
abbrev frmMax : Nat := frmMaxOf paylenW

/-- The width of FRMLEN. -/
abbrev frmlenW : Nat := frmlenWOf paylenW

end Sys2Proof.Config
end

