-- ==== Sys2Proof/Word.lean ====
section
/-!
DEFINITION. The word types of AX25ENC (00_scope.md R14, R15): the octet, sequences of octets, the 16-bit FCS.
-/

namespace Sys2Proof

/-- One octet; bit 0 is the least significant bit (00_scope.md R14). -/
abbrev Octet := BitVec 8

/-- A 16-bit frame check sequence, as a number (10_state.md R32). -/
abbrev Word16 := BitVec 16

end Sys2Proof
end

