-- ==== Sys2Proof/Syntax.lean ====
section
/-!
DEFINITION. The syntax of AX25ENC: the seven commands (30_encoding.md R84), the twenty registers (10_state.md R20) and
the host's actions (00_scope.md R17).
-/

namespace Sys2Proof

/-- A command with its flag operands (30_encoding.md R81, R84): one constructor per row of the opcode map. -/
inductive Instr where
  /-- PARSE; `S` selects the identifier, false the destination, true the source (R93, R116). -/
  | parse (S : Bool)
  /-- ENCADDR; `M` is moreAddressesFollow, `C` is isCommand (R134). -/
  | encaddr (M C : Bool)
  /-- BLDCTL, the literal control octet (R151). -/
  | bldctl
  /-- BLDCTLC, the combined control octet (R153). -/
  | bldctlc
  /-- FCS; `S` selects the body, false the payload alone, true the frame body (R93, R174). -/
  | fcs (S : Bool)
  /-- ASMFRM; `L` is withLeadingFlag (R190). -/
  | asmfrm (L : Bool)
  /-- MKFRM; `X` selects the control octet, false literal, true combined (R194). -/
  | mkfrm (L X M C : Bool)
deriving DecidableEq, Repr

/-- The twenty registers of the block, in the order of 10_state.md R20. -/
inductive Reg where
  | cmd | status | dstlen | dstid | srclen | srcid | nr | ns | pf | pid
  | paylen | payload | addr | ctrl | fcsr | frmlen | frame | plen | pcall | pssid
deriving DecidableEq, Repr

/-- What a register is (10_state.md R20, column "kind"): the command port, a scalar of so many bits, or a buffer of so
many octets. -/
inductive Shape where
  | port
  | scalar (width : Nat)
  | buffer (size : Nat)
deriving DecidableEq, Repr

/-- One entry of the host's stream (00_scope.md R17, 70_reset_and_hazards.md R240). Registers are named by number
(10_state.md R20) and values are the numbers of their bit patterns (log entry 6), so that an entry which is no host
action (93_implementation_defined.md U2, U3, U6) can be written down and is refused. WRS is a shorthand for a list of
these (`Machine.wrsActions`). -/
inductive HostAction where
  /-- `WR REG, v`. -/
  | wr (reg value : Nat)
  /-- `WR B[i], v`. -/
  | wrOctet (reg index value : Nat)
  /-- `RD REG`. -/
  | rd (reg : Nat)
  /-- `RD B[i]`. -/
  | rdOctet (reg index : Nat)
  /-- `CMD w`. -/
  | cmd (word : Nat)
  /-- The platform's reset, between two host actions. -/
  | reset
deriving DecidableEq, Repr

end Sys2Proof
end

