-- ==== Sys2Proof/Machine/Registers.lean ====
section
/-!
DEFINITION. The register table of 10_state.md R20 as data: numbers, kinds with widths and sizes, host write access.
-/

namespace Sys2Proof.Machine

/-- The registers in the order of their numbers (10_state.md R20). -/
def registerTable : List Reg :=
  [.cmd, .status, .dstlen, .dstid, .srclen, .srcid, .nr, .ns, .pf, .pid] ++
  [.paylen, .payload, .addr, .ctrl, .fcsr, .frmlen, .frame, .plen, .pcall, .pssid]

/-- The register of a number; none from 20 on (93_implementation_defined.md U2). -/
def regOfNumber (n : Nat) : Option Reg := registerTable[n]?

/-- A register's number (10_state.md R20, column "no."). -/
def regNumber (r : Reg) : Nat := registerTable.idxOf r

/-- A register's kind, with its width in bits or its size in octets (10_state.md R20). -/
def regShape : Reg → Shape
  | .cmd => .port
  | .status => .scalar 8
  | .dstlen => .scalar 4
  | .dstid => .buffer Config.idMax
  | .srclen => .scalar 4
  | .srcid => .buffer Config.idMax
  | .nr => .scalar Config.seqW
  | .ns => .scalar Config.seqW
  | .pf => .scalar 1
  | .pid => .scalar 8
  | .paylen => .scalar Config.paylenW
  | .payload => .buffer Config.payMax
  | .addr => .buffer Config.addrLen
  | .ctrl => .scalar 8
  | .fcsr => .scalar 16
  | .frmlen => .scalar Config.frmlenW
  | .frame => .buffer Config.frmMax
  | .plen => .scalar 3
  | .pcall => .buffer Config.callLen
  | .pssid => .scalar 4

/-- Whether a host write of the register is stored in it: the registers whose column "host" of 10_state.md R20 has a W,
but for the command port, which has a W there and holds nothing (R21). A write to a register without W is ignored (R36).
No step reads this table: what a write does is `State.writeScalar`, `State.writeOctet` and `runCommand`. -/
def hostWritable : Reg → Bool
  | .dstlen | .dstid | .srclen | .srcid | .nr | .ns | .pf | .pid => true
  | .paylen | .payload | .addr | .ctrl => true
  | .cmd | .status | .fcsr | .frmlen | .frame | .plen | .pcall | .pssid => false

end Sys2Proof.Machine
end

