-- ==== Sys2Proof/WellFormed.lean ====
section
/-!
DEFINITION. Which terms of the syntax are well formed. Every term of `Instr` is: its operands are single bits. A
`HostAction` is when it is a host action of 00_scope.md R17: the register exists and has the kind the action needs, the
index lies in the buffer, and the value has the register's width (93_implementation_defined.md U2, U3, U6).
-/

namespace Sys2Proof

/-- Every flag operand is one bit, so every command is well formed (30_encoding.md R81). -/
def Instr.wf : Instr → Bool
  | .parse _ => true
  | .encaddr _ _ => true
  | .bldctl => true
  | .bldctlc => true
  | .fcs _ => true
  | .asmfrm _ => true
  | .mkfrm _ _ _ _ => true

/-- `value` may be written to register number `reg` as a whole (00_scope.md R17, 93_implementation_defined.md U3). -/
def wrWf (reg value : Nat) : Bool :=
  match (Machine.regOfNumber reg).map Machine.regShape with
  | some .port => decide (value < 2 ^ 8)
  | some (.scalar w) => decide (value < 2 ^ w)
  | some (.buffer _) => false
  | none => false

/-- Register number `reg` can be read as a whole (10_state.md R36; the port reads as 0x00, R21). -/
def rdWf (reg : Nat) : Bool :=
  match (Machine.regOfNumber reg).map Machine.regShape with
  | some .port => true
  | some (.scalar _) => true
  | some (.buffer _) => false
  | none => false

/-- Register number `reg` is a buffer that has an octet `index` (20_memory.md R61). -/
def octetWf (reg index : Nat) : Bool :=
  match (Machine.regOfNumber reg).map Machine.regShape with
  | some .port => false
  | some (.scalar _) => false
  | some (.buffer n) => decide (index < n)
  | none => false

/-- The entry is a host action of 00_scope.md R17, or the reset event. -/
def HostAction.wf : HostAction → Bool
  | .wr reg value => wrWf reg value
  | .wrOctet reg index value => octetWf reg index && decide (value < 2 ^ 8)
  | .rd reg => rdWf reg
  | .rdOctet reg index => octetWf reg index
  | .cmd word => decide (word < 2 ^ 8)
  | .reset => true

end Sys2Proof
end

