-- ==== Sys2Proof/Decode.lean ====
section
/-!
DEFINITION. The command word (30_encoding.md section 1): the opcode map, the decoder, and the encoder of R95. Decoding
is total: each of the 256 words is a command or nothing (R82), and the words that are nothing raise IllegalCommand in
the machine (60_exceptions.md R214).
-/

namespace Sys2Proof

/-- The selector flag S = w[4] (R81). -/
def flagS (w : BitVec 8) : Bool := w.getLsbD 4
/-- The flag L = w[3], withLeadingFlag (R81). -/
def flagL (w : BitVec 8) : Bool := w.getLsbD 3
/-- The flag X = w[2], the control-octet construction (R81). -/
def flagX (w : BitVec 8) : Bool := w.getLsbD 2
/-- The flag M = w[1], moreAddressesFollow (R81). -/
def flagM (w : BitVec 8) : Bool := w.getLsbD 1
/-- The flag C = w[0], isCommand (R81). -/
def flagC (w : BitVec 8) : Bool := w.getLsbD 0

/-- A row of the opcode map (R84): the word is the row's when its bits under `mask` are `pattern`, and then the row's
command takes its flags from the word. -/
structure OpcodeRow where
  mask    : BitVec 8
  pattern : BitVec 8
  instr   : BitVec 8 → Instr

/-- The opcode map (R84), row by row: PARSE, ENCADDR, BLDCTL, BLDCTLC, FCS, ASMFRM, MKFRM. -/
def opcodeMap : List OpcodeRow :=
  [ ⟨0xEF#8, 0x20#8, fun w => .parse (flagS w)⟩,
    ⟨0xFC#8, 0x40#8, fun w => .encaddr (flagM w) (flagC w)⟩,
    ⟨0xFF#8, 0x60#8, fun _ => .bldctl⟩,
    ⟨0xFF#8, 0x64#8, fun _ => .bldctlc⟩,
    ⟨0xEF#8, 0x80#8, fun w => .fcs (flagS w)⟩,
    ⟨0xF7#8, 0xA0#8, fun w => .asmfrm (flagL w)⟩,
    ⟨0xF0#8, 0xC0#8, fun w => .mkfrm (flagL w) (flagX w) (flagM w) (flagC w)⟩ ]

/-- The row of the opcode map a word belongs to (R82: `(w & mask) = match`). -/
def OpcodeRow.holds (row : OpcodeRow) (w : BitVec 8) : Bool := (w &&& row.mask) == row.pattern

/-- The command of a word, or none for an illegal one (R82, R85). -/
def decode (w : BitVec 8) : Option Instr :=
  (opcodeMap.find? (fun row => row.holds w)).map (fun row => row.instr w)

/-- The word `(OP << 5) | (S << 4) | (L << 3) | (X << 2) | (M << 1) | C` of R95. -/
def commandWord (op : Nat) (S L X M C : Bool) : BitVec 8 :=
  let field (v k : Nat) : BitVec 8 := BitVec.ofNat 8 v <<< k
  field op 5 ||| field S.toNat 4 ||| field L.toNat 3 ||| field X.toNat 2 ||| field M.toNat 1 ||| field C.toNat 0

/-- The word of a command, by R95: OP from R84, absent flags 0, and X = 1 implied by BLDCTLC. -/
def encode : Instr → BitVec 8
  | .parse S => commandWord 0b001 S false false false false
  | .encaddr M C => commandWord 0b010 false false false M C
  | .bldctl => commandWord 0b011 false false false false false
  | .bldctlc => commandWord 0b011 false false true false false
  | .fcs S => commandWord 0b100 S false false false false
  | .asmfrm L => commandWord 0b101 false L false false false
  | .mkfrm L X M C => commandWord 0b110 false L X M C

/-- The bits of a table row's instruction, numbered as the opcode table numbers them: `w` cut to its `nbits` bits. A
command is one 8-bit word (R80), so nothing is laid out over several words. -/
def tableWord (nbits w : Nat) : Nat := w % 2 ^ nbits

/-- What the decoder reads from the instruction whose bits are `w`; none where the bits are no 8-bit word
(93_implementation_defined.md U3) or an illegal one. -/
def decodeTableWord (nbits w : Nat) : Option Instr :=
  if tableWord nbits w < 2 ^ 8 then decode (BitVec.ofNat 8 (tableWord nbits w)) else none

end Sys2Proof
end

