-- ==== Sys2Proof/Machine/State.lean ====
section
/-!
DEFINITION. The state of AX25ENC as plain data (10_state.md R20, R45), the error codes, and the reasons a step can stop.
-/

namespace Sys2Proof.Machine

/-- A buffer register's octets (20_memory.md R60, R61): the cells (index, octet) that differ from what an unlisted
index reads as, by rising index. -/
abbrev Memory := List Host.Cell

/-- What an index that no cell lists reads as: the reset contents of every buffer (10_state.md R45). -/
def Memory.blank : Octet := 0x00#8

/-- The outcomes of a command, named (60_exceptions.md R211). -/
inductive Err where
  | ok
  | invalidAddress
  | illegalCommand
deriving DecidableEq, Repr

/-- The block never stops with a fault: its errors are values of STATUS.ERR after which it goes on
(60_exceptions.md R214, R218, R219). So there is no constructor, and no step can answer one. -/
inductive Fault where
deriving DecidableEq, Repr

/-- Why a step is refused. Each is safe: the machine stops where the spec offers the host no such action, and the last
reason is for an instruction without a meaning, which no arm of this model uses. -/
inductive Refusal where
  /-- Raised by a host action on a register number of 20 or above (93_implementation_defined.md U2). Safe. -/
  | noSuchRegister (reg : Nat)
  /-- Raised by a host action on a whole buffer, or on an octet of a register that is none (00_scope.md R17,
  20_memory.md R65). Safe. -/
  | wrongKind (reg : Nat)
  /-- Raised by a host write, or a command, of a value wider than the register (93_implementation_defined.md U3). Safe. -/
  | valueTooWide (reg value : Nat)
  /-- Raised by a host action on an octet beyond the buffer (93_implementation_defined.md U6). Safe. -/
  | noSuchOctet (reg index : Nat)
  /-- Raised by an instruction whose meaning is not written; none is left. Safe. -/
  | notModelled (mnemonic : String)
deriving DecidableEq, Repr

/-- The state: the registers of 10_state.md R20, in its order, then the model's two own fields. CMD holds nothing
(R21) and has no field; STATUS is stored as its field ERR, its other bits being hardwired 0 (R22). -/
structure State where
  err      : BitVec 2
  dstlen   : BitVec 4
  dstid    : Memory
  srclen   : BitVec 4
  srcid    : Memory
  nr       : BitVec Config.seqW
  ns       : BitVec Config.seqW
  pf       : BitVec 1
  pid      : Octet
  paylen   : BitVec Config.paylenW
  payload  : Memory
  addr     : Memory
  ctrl     : Octet
  fcsr     : Word16
  frmlen   : BitVec Config.frmlenW
  frame    : Memory
  plen     : BitVec 3
  pcall    : Memory
  pssid    : BitVec 4
  /-- The host's coming actions, oldest first (log entry 3). -/
  pending  : List HostAction
  /-- The values host reads have returned, newest first (log entry 4). -/
  returned : List Nat
deriving DecidableEq, Repr

/-- The state right after reset (10_state.md R45): everything 0 but PID = 0xF0; the host has nothing queued. -/
def State.reset : State where
  err := 0#2
  dstlen := 0#4
  dstid := []
  srclen := 0#4
  srcid := []
  nr := 0#8
  ns := 0#8
  pf := 0#1
  pid := 0xF0#8
  paylen := 0#9
  payload := []
  addr := []
  ctrl := 0x00#8
  fcsr := 0x0000#16
  frmlen := 0#10
  frame := []
  plen := 0#3
  pcall := []
  pssid := 0#4
  pending := []
  returned := []

/-- What a step answers. -/
abbrev Result := Host.Outcome State Fault Refusal

end Sys2Proof.Machine
end

