-- ==== Sys2Proof/Machine/Flags.lean ====
section
/-!
DEFINITION. The block's one flag, STATUS.ERR (10_state.md R22, R42), and its codes (60_exceptions.md R211).
-/

namespace Sys2Proof.Machine

/-- The code of an outcome in STATUS.ERR (60_exceptions.md R211). -/
def errCode : Err → BitVec 2
  | .ok => 0#2
  | .invalidAddress => 1#2
  | .illegalCommand => 2#2

/-- `STATUS.ERR <- e` (60_exceptions.md R212). -/
def State.setErr (e : Err) (s : State) : State := { s with err := errCode e }

/-- The register STATUS: ERR in bits 1:0, bits 7:2 hardwired 0 (10_state.md R22). -/
def State.status (s : State) : BitVec 8 := s.err.setWidth 8

end Sys2Proof.Machine
end

