-- ==== Sys2Proof/Machine/Ops.lean ====
section
/-!
DEFINITION. The operations every command shares: reading and writing octets of a buffer (00_scope.md R15, R16), writing
a command's results, completing, and raising an error. Raising an error is the block's whole exception entry
(60_exceptions.md R213, R214, R218): nothing is saved and no control is transferred, so there is no return to model
(R219).
-/

namespace Sys2Proof.Machine

/-- The canonical form of a buffer: indices strictly rising, and no cell that holds what an unlisted index reads as. -/
abbrev Memory.wf (m : Memory) : Prop :=
  m.Pairwise (fun c d => c.1 < d.1) ∧ ∀ c ∈ m, c.2 ≠ Memory.blank

/-- Every cell of the buffer lies below `size` (20_memory.md R61). -/
abbrev Memory.within (size : Nat) (m : Memory) : Prop := ∀ c ∈ m, c.1 < size

/-- `B[i]` (00_scope.md R16). -/
def Memory.read (m : Memory) (i : Nat) : Octet :=
  match m with
  | [] => Memory.blank
  | (j, b) :: rest => if j = i then b else Memory.read rest i

/-- The cells of `m` but for index `i`. -/
def Memory.erase (m : Memory) (i : Nat) : Memory := m.filter (fun c => c.1 != i)

/-- Puts a cell before the first one of a larger index. -/
def Memory.place (m : Memory) (i : Nat) (b : Octet) : Memory :=
  match m with
  | [] => [(i, b)]
  | (j, c) :: rest => if i < j then (i, b) :: (j, c) :: rest else (j, c) :: Memory.place rest i b

/-- `B[i] <- b` (00_scope.md R16). Writing what an unlisted index reads as takes the cell out. -/
def Memory.write (m : Memory) (i : Nat) (b : Octet) : Memory :=
  if b = Memory.blank then m.erase i else (m.erase i).place i b

/-- `MemRead(B, i, n)`: the octets `B[i..i+n-1]` as a sequence (00_scope.md R16). -/
def Memory.readRange (m : Memory) (i n : Nat) : List Octet := (List.range' i n).map m.read

/-- `MemWrite(B, i, n, s)` with `n = |s|`: the octets of `s` to `B[i..i+n-1]` (00_scope.md R16). -/
def Memory.writeRange (m : Memory) (i : Nat) (s : List Octet) : Memory :=
  match s with
  | [] => m
  | b :: rest => (m.write i b).writeRange (i + 1) rest

/-- PLEN, PCALL[0..5] and PSSID (10_state.md R34): the callsign's length, its six padded octets, the SSID. -/
def State.setStation (length : Nat) (padded : List Octet) (ssid : Nat) (s : State) : State :=
  { s with plen := BitVec.ofNat 3 length, pcall := s.pcall.writeRange 0 padded, pssid := BitVec.ofNat 4 ssid }

/-- `ADDR[0..13] <- a` (10_state.md R30). -/
def State.setAddr (a : List Octet) (s : State) : State := { s with addr := s.addr.writeRange 0 a }

/-- `CTRL <- c` (10_state.md R31). -/
def State.setCtrl (c : Octet) (s : State) : State := { s with ctrl := c }

/-- `FCSR <- c` (10_state.md R32). -/
def State.setFcsr (c : Word16) (s : State) : State := { s with fcsr := c }

/-- `FRAME[0..|f|-1] <- f; FRMLEN <- |f|` (10_state.md R33): the octets of FRAME from `|f|` on keep their values (R35). -/
def State.setFrame (f : List Octet) (s : State) : State :=
  { s with frame := s.frame.writeRange 0 f, frmlen := BitVec.ofNat Config.frmlenW f.length }

/-- `FRMLEN <- 0`: no frame (10_state.md R33, 44_frame_assembler.md R196). -/
def State.clearFrame (s : State) : State := { s with frmlen := BitVec.ofNat Config.frmlenW 0 }

/-- A command that completes: `STATUS.ERR <- OK`, as its last effect (60_exceptions.md R212). -/
def complete (s : State) : Result := .next (s.setErr .ok)

/-- `raise e` (00_scope.md R16, 60_exceptions.md R213, R214, R218): the command stops, with none of its remaining
writes, and the code of `e` goes to STATUS.ERR; the block is ready for the next host action. -/
def raise (e : Err) (s : State) : Result := .next (s.setErr e)

end Sys2Proof.Machine
end

