-- ==== Sys2Proof/Machine/Operands.lean ====
section
/-!
DEFINITION. How a command's operands are read from the registers (30_encoding.md section 3, 20_memory.md R66): whole
sequences, at the instant of the command.
-/

namespace Sys2Proof.Machine

/-- `DSTID[0..DSTLEN-1]` (10_state.md R23). -/
def destination (s : State) : List Octet := s.dstid.readRange 0 s.dstlen.toNat

/-- `SRCID[0..SRCLEN-1]` (10_state.md R24). -/
def source (s : State) : List Octet := s.srcid.readRange 0 s.srclen.toNat

/-- The identifier PARSE's selector names (30_encoding.md R93): false the destination, true the source. -/
def identifier (S : Bool) (s : State) : List Octet := if S then source s else destination s

/-- `PAYLOAD[0..PAYLEN-1]` (10_state.md R29). -/
def payloadOctets (s : State) : List Octet := s.payload.readRange 0 s.paylen.toNat

/-- `ADDR[0..13]` (10_state.md R30). -/
def addressField (s : State) : List Octet := s.addr.readRange 0 Config.addrLen

/-- `ADDR[0..13] ++ [CTRL] ++ [PID] ++ PAYLOAD[0..PAYLEN-1]` (30_encoding.md R93). -/
def frameBody (s : State) : List Octet := addressField s ++ [s.ctrl] ++ [s.pid] ++ payloadOctets s

/-- The body FCS's selector names (30_encoding.md R93): false the payload alone, true the frame body. -/
def fcsBody (S : Bool) (s : State) : List Octet := if S then frameBody s else payloadOctets s

/-- `signed(v)` (42_control_field.md R158), for a register of any width. -/
def signed {w : Nat} (v : BitVec w) : Int := v.toInt

/-- The bit PF as a truth value: 1 true, 0 false (10_state.md R27). -/
def pollFinal (s : State) : Bool := s.pf == 1#1

end Sys2Proof.Machine
end

