-- ==== Sys2Proof/Machine/Callsign.lean ====
section
/-!
DEFINITION. CallsignParser (40_callsign_parser.md): the function `Parse` and the command PARSE.
-/

namespace Sys2Proof.Machine

/-- A StationId (00_scope.md R18): the callsign's characters and the SSID. -/
structure StationId where
  call : List Octet
  ssid : Nat
deriving DecidableEq, Repr

/-- The hyphen's code (30_encoding.md R86). -/
def hyphen : Octet := 0x2D#8

/-- `IsDigit` (R112). -/
def isDigit (c : Octet) : Bool := decide (0x30#8 ≤ c) && decide (c ≤ 0x39#8)

/-- `IsUpper` (R112). -/
def isUpper (c : Octet) : Bool := decide (0x41#8 ≤ c) && decide (c ≤ 0x5A#8)

/-- `IsCallCh` (R112). -/
def isCallCh (c : Octet) : Bool := isDigit c || isUpper c

/-- The SSID of what follows the first hyphen (R112): one digit, or 1 and a digit from 0 to 5. -/
def parseSuffix : List Octet → Option Nat
  | [d] => if isDigit d then some (d.toNat - 0x30) else none
  | [t, d] => if t = 0x31#8 ∧ 0x30#8 ≤ d ∧ d ≤ 0x35#8 then some (10 + d.toNat - 0x30) else none
  | _ => none

/-- What R112 makes of the callsign and of the rest, which is empty or begins with the first hyphen. -/
def parseParts (call rest : List Octet) : Option StationId :=
  if call.length < 2 ∨ call.length > 6 then none
  else if call.all isCallCh then
    match rest with
    | [] => some ⟨call, 0⟩
    | _ :: suffix => (parseSuffix suffix).map (fun n => ⟨call, n⟩)
  else none

/-- `Parse(s)` (R112): none is `Invalid`. The identifier is split at its first hyphen. -/
def parse (s : List Octet) : Option StationId :=
  parseParts (s.takeWhile (fun c => c != hyphen)) (s.dropWhile (fun c => c != hyphen))

/-- `Pad6(call)` (41_address_encoder.md R131): left-justified, padded with ASCII spaces to six octets. -/
def pad6 (call : List Octet) : List Octet := call ++ List.replicate (6 - call.length) 0x20#8

/-- PARSE (R116), and its failure (R117). -/
def execParse (S : Bool) (s : State) : Result :=
  match parse (identifier S s) with
  | some id => complete (s.setStation id.call.length (pad6 id.call) id.ssid)
  | none => raise .invalidAddress s

end Sys2Proof.Machine
end

