-- ==== Sys2Proof/Machine/Address.lean ====
section
/-!
DEFINITION. AddressEncoder (41_address_encoder.md): the function `EncodeAddr` and the command ENCADDR.
-/

namespace Sys2Proof.Machine

/-- Steps 2 to 5 of R132: both callsigns left-justified and padded, each followed by its raw SSID. -/
def addressOctets (d s : StationId) : List Octet :=
  pad6 d.call ++ [BitVec.ofNat 8 d.ssid] ++ (pad6 s.call ++ [BitVec.ofNat 8 s.ssid])

/-- Step 6 of R132, R141: every octet shifted left by one, its bit 7 discarded. -/
def shiftOctets (a : List Octet) : List Octet := a.map (fun (v : Octet) => v <<< (1 : Nat))

/-- Step 7 of R132: the reserved bits 5 and 6 of both SSID octets (90_conflicts.md C6). -/
def setReserved (a : List Octet) : List Octet := (a.modify 6 (· ||| 0x60#8)).modify 13 (· ||| 0x60#8)

/-- Step 8 of R132: the command/response bit, bit 7 of octets 6 and 13. -/
def setCommandBits (C : Bool) (a : List Octet) : List Octet :=
  if C then (a.modify 6 (· ||| 0x80#8)).modify 13 (· &&& 0x7F#8)
  else (a.modify 6 (· &&& 0x7F#8)).modify 13 (· ||| 0x80#8)

/-- Step 9 of R132: the extension bit, bit 0 of octet 13 only. -/
def setExtension (M : Bool) (a : List Octet) : List Octet :=
  if M then a.modify 13 (· &&& 0xFE#8) else a.modify 13 (· ||| 0x01#8)

/-- Steps 2 to 9 of R132, for two parsed identifiers. -/
def packAddress (d s : StationId) (C M : Bool) : List Octet :=
  setExtension M (setCommandBits C (setReserved (shiftOctets (addressOctets d s))))

/-- `EncodeAddr(dst, src, C, M)` (R132): none is `Invalid`, when either identifier fails to parse (step 1). -/
def encodeAddr (dst src : List Octet) (C M : Bool) : Option (List Octet) :=
  match parse dst, parse src with
  | some d, some s => some (packAddress d s C M)
  | _, _ => none

/-- ENCADDR (R134), and its failure (R135). -/
def execEncaddr (M C : Bool) (s : State) : Result :=
  match encodeAddr (destination s) (source s) C M with
  | some a => complete (s.setAddr a)
  | none => raise .invalidAddress s

end Sys2Proof.Machine
end

