-- ==== Sys2Proof/Machine/Checksum.lean ====
section
/-!
DEFINITION. ChecksumEngine (43_checksum.md): CRC-16/X-25 and the command FCS. The algorithm is R171's (log entry 9).
-/

namespace Sys2Proof.Machine

/-- One of the eight inner steps of R171: shift right, and exclusive-or 0x8408 when a 1 went out. -/
def crcShift (c : Word16) : Word16 := if c.getLsbD 0 then (c >>> 1) ^^^ 0x8408#16 else c >>> 1

/-- `n` inner steps. -/
def crcShifts : Nat → Word16 → Word16
  | 0, c => c
  | n + 1, c => crcShifts n (crcShift c)

/-- One octet into the CRC register (R171). -/
def crcOctet (c : Word16) (b : Octet) : Word16 := crcShifts 8 (c ^^^ b.setWidth 16)

/-- `Crc16X25(s)` (R171): from 0xFFFF, every octet in order, and the final exclusive-or. -/
def crc16X25 (s : List Octet) : Word16 := s.foldl crcOctet 0xFFFF#16 ^^^ 0xFFFF#16

/-- The two octets of a check sequence, most significant first (R172, 20_memory.md R63). -/
def highFirst (c : Word16) : List Octet := [c.extractLsb' 8 8, c.extractLsb' 0 8]

/-- `FcsOctets(s)` (R172). -/
def fcsOctets (s : List Octet) : List Octet := highFirst (crc16X25 s)

/-- FCS (R174). -/
def execFcs (S : Bool) (s : State) : Result := complete (s.setFcsr (crc16X25 (fcsBody S s)))

end Sys2Proof.Machine
end

