-- ==== Sys2Proof/Machine/Control.lean ====
section
/-!
DEFINITION. ControlFieldBuilder (42_control_field.md): the literal and the combined control octet and the commands
BLDCTL and BLDCTLC.
-/

namespace Sys2Proof.Machine

/-- The test `0 <= x < 8` on a signed sequence number (R152, R158). -/
def inRange (x : Int) : Bool := decide (0 ≤ x) && decide (x < 8)

/-- `x << k` as an octet, for a sequence number in 0..7 (30_encoding.md R92). -/
def seqField (x : Int) (k : Nat) : Octet := BitVec.ofNat 8 x.toNat <<< k

/-- `CtlLiteral(nr, ns, pf)` (R152): a valid send number replaces the whole octet (90_conflicts.md C1). -/
def ctlLiteral (nr ns : Int) (pf : Bool) : Octet :=
  let r : Octet := 0x00#8
  let r := if inRange nr then r ||| seqField nr 5 else r
  let r := if pf then r ||| 0x10#8 else r &&& 0xEF#8
  if inRange ns then seqField ns 1 else r

/-- `CtlCombined(nr, ns, pf)` (R154): the three fields side by side, an out-of-range number giving 0. -/
def ctlCombined (nr ns : Int) (pf : Bool) : Octet :=
  let r : Octet := 0x00#8
  let r := if inRange nr then r ||| seqField nr 5 else r
  let r := if pf then r ||| 0x10#8 else r
  if inRange ns then r ||| seqField ns 1 else r

/-- The control octet of the session's current NR, NS and PF, in the construction X selects: false literal, true
combined (30_encoding.md R81). -/
def controlOctet (X : Bool) (s : State) : Octet :=
  if X then ctlCombined (signed s.nr) (signed s.ns) (pollFinal s)
  else ctlLiteral (signed s.nr) (signed s.ns) (pollFinal s)

/-- BLDCTL (R151). -/
def execBldctl (s : State) : Result := complete (s.setCtrl (controlOctet false s))

/-- BLDCTLC (R153). -/
def execBldctlc (s : State) : Result := complete (s.setCtrl (controlOctet true s))

end Sys2Proof.Machine
end

