-- ==== Sys2Proof/Machine/Frame.lean ====
section
/-!
DEFINITION. FrameAssembler (44_frame_assembler.md): the function `AsmFrame` and the commands ASMFRM and MKFRM.
-/

namespace Sys2Proof.Machine

/-- The flag octet (R186). -/
def flagOctet : Octet := 0x7E#8

/-- The leading flag, present when L = 1 (R188). -/
def leadingFlag (L : Bool) : List Octet := if L then [flagOctet] else []

/-- `addr ++ [ctrl] ++ [pid] ++ pay`, the frame body (R188, 43_checksum.md R173). -/
def bodyOf (addr : List Octet) (ctrl pid : Octet) (pay : List Octet) : List Octet := addr ++ [ctrl] ++ [pid] ++ pay

/-- The frame around a body (R188, 30_encoding.md R91): the trailing flag is always there, and nothing is stuffed or
escaped (70_reset_and_hazards.md R247). -/
def frameAround (L : Bool) (body : List Octet) : List Octet :=
  leadingFlag L ++ body ++ fcsOctets body ++ [flagOctet]

/-- `AsmFrame(addr, ctrl, pid, pay, L)` (R188): the frame and the CRC. -/
def asmFrame (addr : List Octet) (ctrl pid : Octet) (pay : List Octet) (L : Bool) : List Octet × Word16 :=
  (frameAround L (bodyOf addr ctrl pid pay), crc16X25 (bodyOf addr ctrl pid pay))

/-- Writes a frame and its CRC to FRAME, FRMLEN and FCSR (R190). -/
def State.storeFrame (r : List Octet × Word16) (s : State) : State := (s.setFrame r.1).setFcsr r.2

/-- ASMFRM (R190). -/
def execAsmfrm (L : Bool) (s : State) : Result :=
  complete (s.storeFrame (asmFrame (addressField s) s.ctrl s.pid (payloadOctets s) L))

/-- MKFRM's writes for an encoded address field (R194). -/
def makeFrame (L X : Bool) (a : List Octet) (s : State) : State :=
  ((s.setAddr a).setCtrl (controlOctet X s)).storeFrame (asmFrame a (controlOctet X s) s.pid (payloadOctets s) L)

/-- MKFRM (R194), and its failure (R196): FRMLEN <- 0 and the error, nothing else. -/
def execMkfrm (L X M C : Bool) (s : State) : Result :=
  match encodeAddr (destination s) (source s) C M with
  | some a => complete (makeFrame L X a s)
  | none => raise .invalidAddress s.clearFrame

end Sys2Proof.Machine
end

