-- ==== Sys2Proof/Machine/Dispatch.lean ====
section
/-!
DEFINITION. The commands' meanings, one arm per row of the opcode map (30_encoding.md R84).
-/

namespace Sys2Proof.Machine

open Sys2Proof

def exec (i : Instr) (s : State) : Host.Outcome State Fault Refusal :=
  match i with
  | .parse S => Sys2Proof.Machine.execParse S s
  | .encaddr M C => Sys2Proof.Machine.execEncaddr M C s
  | .bldctl => Sys2Proof.Machine.execBldctl s
  | .bldctlc => Sys2Proof.Machine.execBldctlc s
  | .fcs S => Sys2Proof.Machine.execFcs S s
  | .asmfrm L => Sys2Proof.Machine.execAsmfrm L s
  | .mkfrm L X M C => Sys2Proof.Machine.execMkfrm L X M C s

end Sys2Proof.Machine
end

