-- ==== Sys2Proof/Machine/HostPort.lean ====
section
/-!
DEFINITION. The host's side of the register file (00_scope.md R17, 10_state.md R20, R21, R36): reading and writing a
register, the command port, and the reset event. A value is the number of the register's bit pattern (log entry 6).
-/

namespace Sys2Proof.Machine

/-- What a host read of a register as a whole returns: its current value, and 0x00 for the command port
(10_state.md R21, R36). A buffer has no such read (20_memory.md R65), and answers 0 here, which nothing asks for. -/
def State.scalarValue (s : State) : Reg → Nat
  | .cmd => 0
  | .status => s.status.toNat
  | .dstlen => s.dstlen.toNat
  | .srclen => s.srclen.toNat
  | .nr => s.nr.toNat
  | .ns => s.ns.toNat
  | .pf => s.pf.toNat
  | .pid => s.pid.toNat
  | .paylen => s.paylen.toNat
  | .ctrl => s.ctrl.toNat
  | .fcsr => s.fcsr.toNat
  | .frmlen => s.frmlen.toNat
  | .plen => s.plen.toNat
  | .pssid => s.pssid.toNat
  | .dstid | .srcid | .payload | .addr | .frame | .pcall => 0

/-- The octets of a buffer register; a register that is no buffer has none. -/
def State.bufferOf (s : State) : Reg → Memory
  | .dstid => s.dstid
  | .srcid => s.srcid
  | .payload => s.payload
  | .addr => s.addr
  | .frame => s.frame
  | .pcall => s.pcall
  | .cmd | .status | .dstlen | .srclen | .nr | .ns | .pf | .pid | .paylen | .ctrl | .fcsr | .frmlen | .plen | .pssid => []

/-- A host write of a scalar register replaces the whole register, and a write of one that is read-only to the host
changes nothing (10_state.md R36). -/
def State.writeScalar (r : Reg) (v : Nat) (s : State) : State :=
  match r with
  | .dstlen => { s with dstlen := BitVec.ofNat 4 v }
  | .srclen => { s with srclen := BitVec.ofNat 4 v }
  | .nr => { s with nr := BitVec.ofNat Config.seqW v }
  | .ns => { s with ns := BitVec.ofNat Config.seqW v }
  | .pf => { s with pf := BitVec.ofNat 1 v }
  | .pid => { s with pid := BitVec.ofNat 8 v }
  | .paylen => { s with paylen := BitVec.ofNat Config.paylenW v }
  | .ctrl => { s with ctrl := BitVec.ofNat 8 v }
  | .cmd | .status | .fcsr | .frmlen | .plen | .pssid => s
  | .dstid | .srcid | .payload | .addr | .frame | .pcall => s

/-- A host write of `B[i]` replaces that one octet; FRAME and PCALL are read-only to the host (10_state.md R36). -/
def State.writeOctet (r : Reg) (i v : Nat) (s : State) : State :=
  match r with
  | .dstid => { s with dstid := s.dstid.write i (BitVec.ofNat 8 v) }
  | .srcid => { s with srcid := s.srcid.write i (BitVec.ofNat 8 v) }
  | .payload => { s with payload := s.payload.write i (BitVec.ofNat 8 v) }
  | .addr => { s with addr := s.addr.write i (BitVec.ofNat 8 v) }
  | .frame | .pcall => s
  | .cmd | .status | .dstlen | .srclen | .nr | .ns | .pf | .pid | .paylen | .ctrl | .fcsr | .frmlen | .plen | .pssid => s

/-- A host read hands out a value and changes no register (10_state.md R36, 20_memory.md R68). -/
def State.answer (v : Nat) (s : State) : State := { s with returned := v :: s.returned }

/-- Reset (70_reset_and_hazards.md R240, 10_state.md R45): every register to its reset value. What the host will do and
what it has read are the host's, and stay (log entry 7). -/
def State.resetRegisters (s : State) : State := { State.reset with pending := s.pending, returned := s.returned }

/-- The command port (10_state.md R21, 30_encoding.md R82): an 8-bit value executes its command, and an illegal word
raises IllegalCommand before any operand is read (60_exceptions.md R214, R216). A wider value is no host action
(93_implementation_defined.md U3). DESIGN CHOICE, log entry 12: the action hands nothing back, where 60_exceptions.md R218
also allows it to return the new ERR; the host reads STATUS. -/
def runCommand (word : Nat) (s : State) : Result :=
  if word < 2 ^ 8 then
    match decode (BitVec.ofNat 8 word) with
    | some i => exec i s
    | none => raise .illegalCommand s
  else .refused (.valueTooWide (regNumber .cmd) word)

/-- `WR REG, v`. -/
def performWr (reg value : Nat) (s : State) : Result :=
  match regOfNumber reg with
  | none => .refused (.noSuchRegister reg)
  | some r =>
    match regShape r with
    | .port => runCommand value s
    | .scalar w => if value < 2 ^ w then .next (s.writeScalar r value) else .refused (.valueTooWide reg value)
    | .buffer _ => .refused (.wrongKind reg)

/-- `WR B[i], v`. -/
def performWrOctet (reg index value : Nat) (s : State) : Result :=
  match regOfNumber reg with
  | none => .refused (.noSuchRegister reg)
  | some r =>
    match regShape r with
    | .port => .refused (.wrongKind reg)
    | .scalar _ => .refused (.wrongKind reg)
    | .buffer n =>
      if index < n then
        if value < 2 ^ 8 then .next (s.writeOctet r index value) else .refused (.valueTooWide reg value)
      else .refused (.noSuchOctet reg index)

/-- `RD REG`. -/
def performRd (reg : Nat) (s : State) : Result :=
  match regOfNumber reg with
  | none => .refused (.noSuchRegister reg)
  | some r =>
    match regShape r with
    | .port => .next (s.answer (s.scalarValue r))
    | .scalar _ => .next (s.answer (s.scalarValue r))
    | .buffer _ => .refused (.wrongKind reg)

/-- `RD B[i]`. -/
def performRdOctet (reg index : Nat) (s : State) : Result :=
  match regOfNumber reg with
  | none => .refused (.noSuchRegister reg)
  | some r =>
    match regShape r with
    | .port => .refused (.wrongKind reg)
    | .scalar _ => .refused (.wrongKind reg)
    | .buffer n =>
      if index < n then .next (s.answer ((s.bufferOf r).read index).toNat) else .refused (.noSuchOctet reg index)

/-- One host action, atomic and complete (00_scope.md R11). -/
def perform (a : HostAction) (s : State) : Result :=
  match a with
  | .wr reg value => performWr reg value s
  | .wrOctet reg index value => performWrOctet reg index value s
  | .rd reg => performRd reg s
  | .rdOctet reg index => performRdOctet reg index s
  | .cmd word => runCommand word s
  | .reset => .next s.resetRegisters

/-- The length register of a buffer that has a writable one (00_scope.md R17, 10_state.md R23, R24, R29). -/
def lengthRegister : Reg → Option Reg
  | .dstid => some .dstlen
  | .srcid => some .srclen
  | .payload => some .paylen
  | .cmd | .status | .dstlen | .srclen | .nr | .ns | .pf | .pid | .paylen | .addr | .ctrl | .fcsr | .frmlen => none
  | .frame | .plen | .pcall | .pssid => none

/-- `WRS B, s` (00_scope.md R17): the writes it is a shorthand for, the octets in order and then the length (log
entry 11). -/
def wrsActions (buffer : Reg) (s : List Octet) : List HostAction :=
  (s.zipIdx.map (fun c => HostAction.wrOctet (regNumber buffer) c.2 c.1.toNat)) ++
    ((lengthRegister buffer).map (fun r => HostAction.wr (regNumber r) s.length)).toList

/-- One step: the first of the host's coming actions; with none, the block waits and nothing changes (00_scope.md R10,
70_reset_and_hazards.md R241). -/
def hostStep (s : State) : Result :=
  match s.pending with
  | [] => .next s
  | a :: rest => perform a { s with pending := rest }

/-- The state in which the host's next action is the command of a table row's word, before whatever else it has
queued (log entry 8). -/
def State.queueWord (nbits w : Nat) (s : State) : State :=
  { s with pending := .cmd (tableWord nbits w) :: s.pending }

end Sys2Proof.Machine
end

