-- ==== Sys2Proof/Machine/Step.lean ====
section
/-!
DEFINITION. The step of the machine, and how an instruction is placed where the next step takes it from.
-/

namespace Sys2Proof.Machine

/-- One step of the machine: one host action (00_scope.md R11). -/
def step (s : State) : Host.Outcome State Fault Refusal := hostStep s

/-- The block fetches nothing (10_state.md R41): its next command is the next entry of the host's stream. -/
def State.withFetchWord (s : State) (nbits w : Nat) : State := s.queueWord nbits w

end Sys2Proof.Machine
end

