-- ==== Sys2Proof/Safety.lean ====
section
/-!
DEFINITION. The words in which claims are made: the grammar of identifiers as the spec describes it (40_callsign_parser.md
R111), what a complete frame is (30_encoding.md R91), the CRC by its four parameters (43_checksum.md R170), and the
properties of a state that every step keeps.
-/

namespace Sys2Proof.Machine

/-- An upper-case letter or a digit, by its ASCII code (30_encoding.md R86). -/
abbrev IsCallChar (c : Octet) : Prop := (0x41 ≤ c.toNat ∧ c.toNat ≤ 0x5A) ∨ (0x30 ≤ c.toNat ∧ c.toNat ≤ 0x39)

/-- The callsign invariant `^[A-Z0-9]{2,6}$` (40_callsign_parser.md R111). -/
abbrev IsCallsign (call : List Octet) : Prop := 2 ≤ call.length ∧ call.length ≤ 6 ∧ ∀ c ∈ call, IsCallChar c

/-- `n` in decimal without a leading zero, for 0 to 15 (40_callsign_parser.md R111, R118). -/
def ssidText (n : Nat) : List Octet :=
  if n < 10 then [BitVec.ofNat 8 (0x30 + n)] else [0x31#8, BitVec.ofNat 8 (0x30 + (n - 10))]

/-- The identifier has the shape `CALL`, which means SSID 0 (40_callsign_parser.md R113), or `CALL-N` (R111). -/
def Denotes (text call : List Octet) (n : Nat) : Prop :=
  IsCallsign call ∧ ((text = call ∧ n = 0) ∨ (n ≤ 15 ∧ text = call ++ [0x2D#8] ++ ssidText n))

/-- The identifier is in the grammar (40_callsign_parser.md R111). -/
def ValidIdentifier (text : List Octet) : Prop := ∃ call n, Denotes text call n

/-- The octets of an identifier written as characters (30_encoding.md R86). -/
def ascii (text : List Char) : List Octet := text.map (fun c => BitVec.ofNat 8 c.toNat)

/-- The callsign's six octets: left-justified, padded with ASCII spaces (41_address_encoder.md R131). -/
def spacePadded (call : List Octet) : List Octet := call ++ List.replicate (6 - call.length) 0x20#8

/-- The octets of a whole frame around a body, by 30_encoding.md R91: the leading flag when `L`, the body verbatim, the
body's CRC high octet first, the trailing flag. -/
def frameOctets (L : Bool) (body : List Octet) : List Octet :=
  (if L then [0x7E#8] else []) ++ body ++
    [BitVec.ofNat 8 ((crc16X25 body).toNat / 256), BitVec.ofNat 8 ((crc16X25 body).toNat % 256)] ++ [0x7E#8]

/-- The octets are one complete frame: some address field, control octet, PID octet and payload of a length the block
can hold, framed as 30_encoding.md R91 says, with a check sequence that holds. -/
def IsFrame (f : List Octet) : Prop :=
  ∃ (L : Bool) (addr : List Octet) (ctrl pid : Octet) (pay : List Octet),
    addr.length = 14 ∧ pay.length ≤ Config.payMax ∧ f = frameOctets L (addr ++ [ctrl] ++ [pid] ++ pay)

/-- One bit into the CRC register as the four parameters say it (43_checksum.md R170): the register runs towards its
top with the polynomial 0x1021. -/
def crcStepByPolynomial (c : Word16) (bit : Bool) : Word16 :=
  if c.msb ^^ bit then (c <<< 1) ^^^ 0x1021#16 else c <<< 1

/-- The bits of an octet in the order of reflected input: least significant first (43_checksum.md R171). -/
def reflectedBits (b : Octet) : List Bool := (List.range 8).map b.getLsbD

/-- CRC-16/X-25 by its parameters (43_checksum.md R170): polynomial 0x1021, init 0xFFFF, input and output reflected,
final exclusive-or 0xFFFF. -/
def crcByParameters (s : List Octet) : Word16 :=
  ((s.flatMap reflectedBits).foldl crcStepByPolynomial 0xFFFF#16).reverse ^^^ 0xFFFF#16

/-- Every buffer is in its canonical form, and lists no octet beyond its size (10_state.md R20, 20_memory.md R61). -/
abbrev State.BuffersCanonical (s : State) : Prop :=
  (s.dstid.wf ∧ s.dstid.within Config.idMax) ∧ (s.srcid.wf ∧ s.srcid.within Config.idMax) ∧
  (s.payload.wf ∧ s.payload.within Config.payMax) ∧ (s.addr.wf ∧ s.addr.within Config.addrLen) ∧
  (s.frame.wf ∧ s.frame.within Config.frmMax) ∧ (s.pcall.wf ∧ s.pcall.within Config.callLen)

/-- STATUS.ERR is one of its three codes (10_state.md R22, 60_exceptions.md R211). -/
abbrev State.StatusLegal (s : State) : Prop := s.err ≠ 3#2

/-- PLEN, PCALL and PSSID hold what reset left, or a StationId (10_state.md R34, 40_callsign_parser.md R118 (d)). -/
abbrev State.StationIdValid (s : State) : Prop :=
  (s.plen = 0#3 ∧ s.pssid = 0#4 ∧ s.pcall.readRange 0 6 = List.replicate 6 0x00#8) ∨
  (IsCallsign (s.pcall.readRange 0 s.plen.toNat) ∧
    s.pcall.readRange s.plen.toNat (6 - s.plen.toNat) = List.replicate (6 - s.plen.toNat) 0x20#8)

/-- FRMLEN = 0, no frame, or FRAME[0..FRMLEN-1] is one complete frame (10_state.md R33, 30_encoding.md R91). -/
def State.FrameComplete (s : State) : Prop :=
  s.frmlen.toNat = 0 ∨ IsFrame (s.frame.readRange 0 s.frmlen.toNat)

/-- What the block guarantees of every state its host can bring it to. -/
def State.Inv (s : State) : Prop := s.BuffersCanonical ∧ s.StatusLegal ∧ s.StationIdValid ∧ s.FrameComplete

end Sys2Proof.Machine
end

