-- ==== Sys2Proof/Certificates/Slice0/Obligations.lean ====
section
/-!
DEFINITION. What the model is claimed to satisfy: one proposition per claim, most of them the numbered rules of the
spec. Each docstring names the rule or the sentence, and says so where a clause rests on a choice of the model.
-/

open Sys2Proof Sys2Proof.Machine

/-! ### Reset and the register file -/

/-- 10_state.md R45: what reset leaves in every register, and its listed consequences. -/
def Obligations.ResetLeavesEveryRegisterAtItsValue : Prop :=
  State.reset.status = 0x00#8 ∧ State.reset.dstlen = 0#4 ∧ State.reset.srclen = 0#4 ∧ State.reset.nr = 0#8 ∧
  State.reset.ns = 0#8 ∧ State.reset.pf = 0#1 ∧ State.reset.pid = 0xF0#8 ∧ State.reset.paylen = 0#9 ∧
  State.reset.ctrl = 0x00#8 ∧ State.reset.fcsr = 0x0000#16 ∧ State.reset.frmlen = 0#10 ∧ State.reset.plen = 0#3 ∧
  State.reset.pssid = 0#4 ∧
  (∀ a, State.reset.dstid.read a = 0x00#8 ∧ State.reset.srcid.read a = 0x00#8 ∧ State.reset.payload.read a = 0x00#8 ∧
    State.reset.addr.read a = 0x00#8 ∧ State.reset.frame.read a = 0x00#8 ∧ State.reset.pcall.read a = 0x00#8) ∧
  destination State.reset = [] ∧ source State.reset = [] ∧ payloadOctets State.reset = [] ∧
  addressField State.reset = List.replicate 14 0x00#8 ∧ ¬ ValidIdentifier [] ∧
  ∀ dst src C M, encodeAddr dst src C M ≠ some (addressField State.reset)

/-- 70_reset_and_hazards.md R240 for the registers. That the host's coming actions and the values it has read stay is
the model's choice (log entry 7). -/
def Obligations.ResetEventRestoresEveryRegister : Prop :=
  ∀ s rest, s.pending = .reset :: rest →
    step s = .next { State.reset with pending := rest, returned := s.returned }

/-- 70_reset_and_hazards.md section 1, "What the reset state does if used as it is" (marked derived there). -/
def Obligations.CommandsFromTheResetState : Prop :=
  (∀ S, exec (.parse S) State.reset = .next { State.reset with err := 1#2 }) ∧
  (∀ M C, exec (.encaddr M C) State.reset = .next { State.reset with err := 1#2 }) ∧
  (∀ L X M C, exec (.mkfrm L X M C) State.reset = .next { State.reset with err := 1#2 }) ∧
  exec .bldctl State.reset = .next State.reset ∧ exec .bldctlc State.reset = .next State.reset ∧
  exec (.fcs false) State.reset = .next State.reset ∧
  exec (.fcs true) State.reset = .next { State.reset with fcsr := 0x5826#16 } ∧
  ∃ t, exec (.asmfrm false) State.reset = .next t ∧ t.frmlen = 19#10 ∧
    t.frame.readRange 0 19 = List.replicate 15 0x00#8 ++ [0xF0#8, 0x58#8, 0x26#8, 0x7E#8]

/-- 10_state.md section 1, the register table: numbers, kinds, widths, sizes, and whether a host write is stored, at the
default parameters (log entries 1 and 2), and no register from number 20 on. "Stored" is the table's host column with one
difference: CMD has a W there and is false here, since the port takes the write and holds nothing. No step reads
`hostWritable`; what a write does is `Obligations.HostAccessesTouchOnlyTheirRegister`. -/
def Obligations.RegisterTableNumbersShapesAccess : Prop :=
  (List.range 20).map (fun n => (regOfNumber n).map (fun r => (r, regShape r, hostWritable r))) =
    [some (.cmd, .port, false), some (.status, .scalar 8, false), some (.dstlen, .scalar 4, true),
      some (.dstid, .buffer 15, true), some (.srclen, .scalar 4, true), some (.srcid, .buffer 15, true),
      some (.nr, .scalar 8, true), some (.ns, .scalar 8, true), some (.pf, .scalar 1, true),
      some (.pid, .scalar 8, true)] ++
    [some (.paylen, .scalar 9, true), some (.payload, .buffer 511, true), some (.addr, .buffer 14, true),
      some (.ctrl, .scalar 8, true), some (.fcsr, .scalar 16, false), some (.frmlen, .scalar 10, false),
      some (.frame, .buffer 531, false), some (.plen, .scalar 3, false), some (.pcall, .buffer 6, false),
      some (.pssid, .scalar 4, false)] ∧
  (∀ n, 20 ≤ n → regOfNumber n = none) ∧ ∀ r, regOfNumber (regNumber r) = some r

/-! ### The command word -/

/-- 30_encoding.md R84: the seven rows, with the flags each takes from the word, and the 28 legal words. -/
def Obligations.OpcodeMapSelectsTheSevenCommands : Prop :=
  (∀ w i, decode w = some i ↔
    (w &&& 0xEF#8 = 0x20#8 ∧ i = .parse (w.getLsbD 4)) ∨
    (w &&& 0xFC#8 = 0x40#8 ∧ i = .encaddr (w.getLsbD 1) (w.getLsbD 0)) ∨
    (w &&& 0xFF#8 = 0x60#8 ∧ i = .bldctl) ∨
    (w &&& 0xFF#8 = 0x64#8 ∧ i = .bldctlc) ∨
    (w &&& 0xEF#8 = 0x80#8 ∧ i = .fcs (w.getLsbD 4)) ∨
    (w &&& 0xF7#8 = 0xA0#8 ∧ i = .asmfrm (w.getLsbD 3)) ∨
    (w &&& 0xF0#8 = 0xC0#8 ∧ i = .mkfrm (w.getLsbD 3) (w.getLsbD 2) (w.getLsbD 1) (w.getLsbD 0))) ∧
  (List.range 256).filter (fun n => (decode (BitVec.ofNat 8 n)).isSome) =
    [0x20, 0x30, 0x40, 0x41, 0x42, 0x43, 0x60, 0x64, 0x80, 0x90, 0xA0, 0xA8] ++ List.range' 0xC0 16

/-- 30_encoding.md section 1 (reserved encodings) and 60_exceptions.md section 1 (illegal words): which words are illegal,
and that each, as the host's next command, writes STATUS.ERR <- 2 and nothing else, and leaves the block ready for the
host's next action. That a step takes the action out of a stream in State, and that the next step performs the one after
it, is the model's choice (log entry 3). -/
def Obligations.IllegalWordsChangeOnlyStatus : Prop :=
  (∀ n, n < 256 → (n < 0x20 ∨ 0xE0 ≤ n) → decode (BitVec.ofNat 8 n) = none) ∧
  (∀ n ∈ [0x21, 0x44, 0x61, 0x68, 0x81, 0xA1, 0xB0, 0xD0], decode (BitVec.ofNat 8 n) = none) ∧
  ((List.range 256).filter (fun n => (decode (BitVec.ofNat 8 n)).isNone)).length = 228 ∧
  ∀ s rest n, n < 256 → decode (BitVec.ofNat 8 n) = none → s.pending = .cmd n :: rest →
    step s = .next { s with pending := rest, err := 2#2 } ∧
    State.status { s with pending := rest, err := 2#2 } = 0x02#8 ∧
    ∀ a more, rest = a :: more →
      step { s with pending := rest, err := 2#2 } = perform a { s with pending := more, err := 2#2 }

/-- 30_encoding.md R95: the word of every command is the formula's, BLDCTLC implying X = 1. With it, decoding the word
of a command gives the command, and a word that decodes to a command is its word. -/
def Obligations.DecodeAndEncodeAreInverse : Prop :=
  (∀ i, (encode i).toNat =
    match i with
    | .parse S => 32 * 1 + 16 * S.toNat
    | .encaddr M C => 32 * 2 + 2 * M.toNat + C.toNat
    | .bldctl => 32 * 3
    | .bldctlc => 32 * 3 + 4
    | .fcs S => 32 * 4 + 16 * S.toNat
    | .asmfrm L => 32 * 5 + 8 * L.toNat
    | .mkfrm L X M C => 32 * 6 + 8 * L.toNat + 4 * X.toNat + 2 * M.toNat + C.toNat) ∧
  ∀ i w, i.wf = true → (decode w = some i ↔ encode i = w)

/-- 30_encoding.md section 4 and 95_test_vectors.md section 2.7: words written out from the encodings decode to the
commands they stand for, and the listed illegal ones to nothing. -/
def Obligations.WrittenOutWordsDecode : Prop :=
  decode 0b00100000#8 = some (.parse false) ∧ decode 0b00110000#8 = some (.parse true) ∧
  decode 0b01000001#8 = some (.encaddr false true) ∧ decode 0b01000010#8 = some (.encaddr true false) ∧
  decode 0b01100000#8 = some .bldctl ∧ decode 0b01100100#8 = some .bldctlc ∧
  decode 0b10000000#8 = some (.fcs false) ∧ decode 0b10010000#8 = some (.fcs true) ∧
  decode 0b10101000#8 = some (.asmfrm true) ∧ decode 0b11001001#8 = some (.mkfrm true false false true) ∧
  decode 0b11000110#8 = some (.mkfrm false true true false) ∧
  ∀ n ∈ [0x00, 0x01, 0x1F, 0xE0, 0xFF, 0x28, 0x2F, 0x48, 0x50, 0x62, 0x70, 0x65, 0x84, 0x98, 0xA4, 0xB8, 0xD9, 0xDF],
    decode (BitVec.ofNat 8 n) = none

/-! ### The host's actions -/

/-- 10_state.md section 1, CMD: a host write of an 8-bit value to CMD makes the block execute the command, and a read of
CMD returns 0x00 and has no effect. A step takes the host's next action out of its stream and is the command's meaning.
The model's choices in it: the stream as a field of State (log entry 3), the record of read values (log entry 4), and that
`withFetchWord` puts the word's write to CMD before whatever is queued (log entry 8). -/
def Obligations.StepRunsTheDecodedCommand : Prop :=
  (∀ s rest w i, w < 256 → decode (BitVec.ofNat 8 w) = some i →
    (s.pending = .cmd w :: rest ∨ s.pending = .wr 0 w :: rest) → step s = exec i { s with pending := rest }) ∧
  (∀ s rest w, w < 256 → decode (BitVec.ofNat 8 w) = none →
    (s.pending = .cmd w :: rest ∨ s.pending = .wr 0 w :: rest) →
    step s = .next { s with pending := rest, err := 2#2 }) ∧
  (∀ s w i, w < 256 → decodeTableWord 8 w = some i → step (s.withFetchWord 8 w) = exec i s) ∧
  ∀ s rest, s.pending = .rd 0 :: rest →
    step s = .next { s with pending := rest, returned := 0 :: s.returned }

/-- 00_scope.md section 5, "between two host actions nothing changes", and 70_reset_and_hazards.md section 1, "the block
is idle and waits for a host action". That waiting is a step which changes nothing is the model's choice (log entry 3). -/
def Obligations.WaitingBlockChangesNothing : Prop :=
  ∀ s, s.pending = [] → step s = .next s

/-- 10_state.md section 2 (host reads and writes, no aliasing): what a host write and a host read of every register do,
and that nothing else moves. The model's own in it: the stream of host actions, `pending` (log entry 3), the record of read
values, `returned` (log entry 4), and that a value is the number of the bit pattern, also for NR and NS (log entry 6,
DEDUCED). -/
def Obligations.HostAccessesTouchOnlyTheirRegister : Prop :=
  (∀ s rest n r w v, regOfNumber n = some r → regShape r = .scalar w → v < 2 ^ w → s.pending = .wr n v :: rest →
    ∃ t, step s = .next t ∧
      t.scalarValue r = (if r ∈ [.status, .fcsr, .frmlen, .plen, .pssid] then s.scalarValue r else v) ∧
      (∀ q, q ≠ r → t.scalarValue q = s.scalarValue q) ∧ (∀ q, t.bufferOf q = s.bufferOf q) ∧
      t.pending = rest ∧ t.returned = s.returned) ∧
  (∀ s rest n r k i v, regOfNumber n = some r → regShape r = .buffer k → i < k → v < 256 →
    s.pending = .wrOctet n i v :: rest →
    ∃ t, step s = .next t ∧
      (t.bufferOf r).read i = (if r ∈ [.frame, .pcall] then (s.bufferOf r).read i else BitVec.ofNat 8 v) ∧
      (∀ a, a ≠ i → (t.bufferOf r).read a = (s.bufferOf r).read a) ∧
      (∀ q, q ≠ r → t.bufferOf q = s.bufferOf q) ∧ (∀ q, t.scalarValue q = s.scalarValue q) ∧
      t.pending = rest ∧ t.returned = s.returned) ∧
  (∀ s rest n r, regOfNumber n = some r → (∃ w, regShape r = .scalar w) → s.pending = .rd n :: rest →
    step s = .next { s with pending := rest, returned := s.scalarValue r :: s.returned }) ∧
  (∀ s rest n r k i, regOfNumber n = some r → regShape r = .buffer k → i < k → s.pending = .rdOctet n i :: rest →
    step s = .next { s with pending := rest, returned := ((s.bufferOf r).read i).toNat :: s.returned }) ∧
  ∀ s rest, s.pending = .rd 0 :: rest →
    step s = .next { s with pending := rest, returned := 0 :: s.returned }

/-- 00_scope.md section 5 (step granularity) and 93_implementation_defined.md U2, U3, U6: every host action completes,
and what is no host action does not run. The refusal is the model's form of "not a host action" (log entry 5). -/
def Obligations.HostActionsCompleteExactlyWhenWellFormed : Prop :=
  ∀ s a rest, s.pending = a :: rest → ((∃ t, step s = .next t) ↔ a.wf = true)

/-- 93_implementation_defined.md U2, U3, U6, and 20_memory.md section 3 for the kind: what is no host action is refused,
each under its own name (log entry 5). -/
def Obligations.ActionsOutsideTheAlphabetAreRefused : Prop :=
  (∀ s rest n v i, 20 ≤ n →
    (s.pending = .wr n v :: rest ∨ s.pending = .wrOctet n i v :: rest ∨ s.pending = .rd n :: rest ∨
      s.pending = .rdOctet n i :: rest) → step s = .refused (.noSuchRegister n)) ∧
  (∀ s rest n r w v, regOfNumber n = some r → regShape r = .scalar w → 2 ^ w ≤ v → s.pending = .wr n v :: rest →
    step s = .refused (.valueTooWide n v)) ∧
  (∀ s rest n r k i v, regOfNumber n = some r → regShape r = .buffer k → i < k → 256 ≤ v →
    s.pending = .wrOctet n i v :: rest → step s = .refused (.valueTooWide n v)) ∧
  (∀ s rest w, 256 ≤ w → (s.pending = .cmd w :: rest ∨ s.pending = .wr 0 w :: rest) →
    step s = .refused (.valueTooWide 0 w)) ∧
  (∀ s rest n r k i v, regOfNumber n = some r → regShape r = .buffer k → k ≤ i →
    (s.pending = .wrOctet n i v :: rest ∨ s.pending = .rdOctet n i :: rest) → step s = .refused (.noSuchOctet n i)) ∧
  (∀ s rest n r k v, regOfNumber n = some r → regShape r = .buffer k →
    (s.pending = .wr n v :: rest ∨ s.pending = .rd n :: rest) → step s = .refused (.wrongKind n)) ∧
  ∀ s rest n r i v, regOfNumber n = some r → (∀ k, regShape r ≠ .buffer k) →
    (s.pending = .wrOctet n i v :: rest ∨ s.pending = .rdOctet n i :: rest) → step s = .refused (.wrongKind n)

/-- 00_scope.md section 6 (host actions): WRS writes the octets of the string to the buffer from index 0 and their number
to its length register. The order of the single writes is the model's choice (log entry 11), and so is the stream the
steps run over (log entry 3). -/
def Obligations.WrsWritesTheString : Prop :=
  (∀ s rest text, text.length ≤ 15 → s.pending = wrsActions .dstid text ++ rest →
    ∃ t, core.run (text.length + 1) s = .next t ∧ destination t = text ∧ t.dstlen.toNat = text.length ∧
      t = { s with dstid := t.dstid, dstlen := t.dstlen, pending := rest } ∧
      ∀ a, text.length ≤ a → t.dstid.read a = s.dstid.read a) ∧
  (∀ s rest text, text.length ≤ 15 → s.pending = wrsActions .srcid text ++ rest →
    ∃ t, core.run (text.length + 1) s = .next t ∧ source t = text ∧ t.srclen.toNat = text.length ∧
      t = { s with srcid := t.srcid, srclen := t.srclen, pending := rest } ∧
      ∀ a, text.length ≤ a → t.srcid.read a = s.srcid.read a) ∧
  ∀ s rest text, text.length ≤ 511 → s.pending = wrsActions .payload text ++ rest →
    ∃ t, core.run (text.length + 1) s = .next t ∧ payloadOctets t = text ∧ t.paylen.toNat = text.length ∧
      t = { s with payload := t.payload, paylen := t.paylen, pending := rest } ∧
      ∀ a, text.length ≤ a → t.payload.read a = s.payload.read a

/-! ### CallsignParser -/

/-- 40_callsign_parser.md R111 and R113: an identifier parses exactly when the whole of it is `CALL` or `CALL-N`, and
then to that callsign and N, with 0 for a missing suffix. Characters are their ASCII codes (log entry 10). -/
def Obligations.ParseAcceptsExactlyTheGrammar : Prop :=
  (∀ text call n, parse text = some ⟨call, n⟩ ↔ Denotes text call n) ∧
  (∀ text, parse text = none ↔ ¬ ValidIdentifier text) ∧
  ∀ call, IsCallsign call → parse call = some ⟨call, 0⟩ ∧ parse (call ++ [0x2D#8, 0x30#8]) = some ⟨call, 0⟩

/-- 40_callsign_parser.md R118: the document's four testable properties of the parser, (a) to (d). -/
def Obligations.ParserLaws : Prop :=
  (∀ call, IsCallsign call → parse call = some ⟨call, 0⟩) ∧
  (∀ call n, IsCallsign call → n ≤ 15 → parse (call ++ [0x2D#8] ++ ssidText n) = some ⟨call, n⟩) ∧
  (∀ call rest, 0x2D#8 ∉ call → (rest = [] ∨ ∃ suffix, rest = 0x2D#8 :: suffix) →
    (call.length < 2 ∨ 6 < call.length ∨ ∃ c ∈ call, ¬ IsCallChar c) → parse (call ++ rest) = none) ∧
  (∀ call n, IsCallsign call → 15 < n →
    parse (call ++ [0x2D#8] ++ ((Nat.digits 10 n).reverse.map (fun d => BitVec.ofNat 8 (0x30 + d)))) = none) ∧
  ∀ S s t, exec (.parse S) s = .next t → t.err = 0#2 →
    2 ≤ t.plen.toNat ∧ t.plen.toNat ≤ 6 ∧ (∀ i, i < t.plen.toNat → IsCallChar (t.pcall.read i)) ∧
    (∀ i, t.plen.toNat ≤ i → i < 6 → t.pcall.read i = 0x20#8) ∧ t.pssid.toNat ≤ 15

/-- 40_callsign_parser.md section 1, the table of corner cases (marked derived there). -/
def Obligations.ParserCornerCases : Prop :=
  parse (ascii ['A', 'B', 'C', 'D', 'E', 'F']) = some ⟨ascii ['A', 'B', 'C', 'D', 'E', 'F'], 0⟩ ∧
  parse (ascii ['A', 'B', 'C', 'D', 'E', 'F', '-', '1', '5']) = some ⟨ascii ['A', 'B', 'C', 'D', 'E', 'F'], 15⟩ ∧
  parse (ascii ['A', 'B']) = some ⟨ascii ['A', 'B'], 0⟩ ∧ parse (ascii ['1', '2']) = some ⟨ascii ['1', '2'], 0⟩ ∧
  parse (ascii ['A', 'B', '-', '0']) = some ⟨ascii ['A', 'B'], 0⟩ ∧
  parse (ascii ['A', 'B', '-', '9']) = some ⟨ascii ['A', 'B'], 9⟩ ∧
  parse (ascii ['A', 'B', '-', '1', '0']) = some ⟨ascii ['A', 'B'], 10⟩ ∧
  parse (ascii ['A', 'B', '-', '1', '5']) = some ⟨ascii ['A', 'B'], 15⟩ ∧
  ∀ text ∈ [[], ['A'], ['A', '-', '1'], ['A', 'B', 'C', 'D', 'E', 'F', 'G'], ['A', 'B', 'C', 'D', 'E', 'F', 'G', '-', '1'],
      ['a', 'b'], ['A', 'b'], ['A', 'B', ' ', '1'], ['A', 'B', '-', '1', ' '], [' ', 'A', 'B']] ++
      [['A', 'B', '-', '1', '6'], ['A', 'B', '-', '2', '0'], ['A', 'B', '-', '9', '9'], ['A', 'B', '-', '0', '0'],
      ['A', 'B', '-', '0', '1'], ['A', 'B', '-', '0', '9'], ['A', 'B', '-', '0', '0', '9'], ['A', 'B', '-', '1', '5', '0']] ++
      [['A', 'B', '-'], ['-', '1'], ['A', 'B', '-', '1', '-', '2'], ['A', 'B', '-', '-', '1'], ['A', 'B', '-', '5', 'X'],
      ['A', 'B', '-', 'X'], ['A', 'É']],
    parse (ascii text) = none

/-- 00_scope.md section 4, ID_MAX (marked derived there): every identifier of ten or more characters is invalid, and so is
every prefix of it of ten or more, among them its first fifteen octets. -/
def Obligations.LongIdentifiersAreInvalid : Prop :=
  ∀ text, 10 ≤ text.length → parse text = none ∧ ∀ k, 10 ≤ k → parse (text.take k) = none

/-- 40_callsign_parser.md R116: PARSE's encoding, its result on an identifier in the grammar, its error on any other,
and the worked example. -/
def Obligations.ParseStoresTheSelectedStationId : Prop :=
  (∀ S, decode (if S then 0b00110000#8 else 0b00100000#8) = some (.parse S)) ∧
  (∀ S s text call n,
    text = (if S then s.srcid.readRange 0 s.srclen.toNat else s.dstid.readRange 0 s.dstlen.toNat) →
    Denotes text call n →
    ∃ t, exec (.parse S) s = .next t ∧ t = { s with plen := t.plen, pcall := t.pcall, pssid := t.pssid, err := 0#2 } ∧
      t.plen.toNat = call.length ∧ t.pcall.readRange 0 6 = spacePadded call ∧ t.pssid.toNat = n ∧
      ∀ a, 6 ≤ a → t.pcall.read a = s.pcall.read a) ∧
  (∀ S s text,
    text = (if S then s.srcid.readRange 0 s.srclen.toNat else s.dstid.readRange 0 s.dstlen.toNat) →
    ¬ ValidIdentifier text → exec (.parse S) s = .next { s with err := 1#2 }) ∧
  ∀ s, s.dstid.readRange 0 s.dstlen.toNat = ascii ['N', 'J', '7', 'P', '-', '1', '5'] →
    ∃ t, exec (.parse false) s = .next t ∧ t.plen = 4#3 ∧
      t.pcall.readRange 0 6 = [0x4E#8, 0x4A#8, 0x37#8, 0x50#8, 0x20#8, 0x20#8] ∧ t.pssid = 15#4 ∧ t.err = 0#2

/-- 40_callsign_parser.md R117, 44_frame_assembler.md R196, 60_exceptions.md R213: the whole state after a PARSE, ENCADDR
or MKFRM that raises InvalidAddress, for each way an identifier can be outside the grammar. -/
def Obligations.FailedCommandsLeaveTheirResults : Prop :=
  (∀ S s, ¬ ValidIdentifier (if S then source s else destination s) →
    exec (.parse S) s = .next { s with err := 1#2 }) ∧
  (∀ M C s, ¬ ValidIdentifier (destination s) ∨ ¬ ValidIdentifier (source s) →
    exec (.encaddr M C) s = .next { s with err := 1#2 }) ∧
  ∀ L X M C s, ¬ ValidIdentifier (destination s) ∨ ¬ ValidIdentifier (source s) →
    exec (.mkfrm L X M C) s = .next { s with frmlen := 0#10, err := 1#2 }

/-! ### AddressEncoder -/

/-- 41_address_encoder.md R134: ENCADDR's encoding, its result when both identifiers encode, its error when one does
not, and the worked example. -/
def Obligations.EncaddrWritesTheAddressField : Prop :=
  (∀ M C, decode (BitVec.ofNat 8 (0x40 + 2 * M.toNat + C.toNat)) = some (.encaddr M C)) ∧
  (∀ M C s r,
    encodeAddr (s.dstid.readRange 0 s.dstlen.toNat) (s.srcid.readRange 0 s.srclen.toNat) C M = some r →
    ∃ t, exec (.encaddr M C) s = .next t ∧ t = { s with addr := t.addr, err := 0#2 } ∧
      t.addr.readRange 0 14 = r ∧ ∀ a, 14 ≤ a → t.addr.read a = s.addr.read a) ∧
  (∀ M C s,
    encodeAddr (s.dstid.readRange 0 s.dstlen.toNat) (s.srcid.readRange 0 s.srclen.toNat) C M = none →
    exec (.encaddr M C) s = .next { s with err := 1#2 }) ∧
  ∀ s, s.dstid.readRange 0 s.dstlen.toNat = ascii ['N', 'J', '7', 'P'] →
    s.srcid.readRange 0 s.srclen.toNat = ascii ['N', '7', 'L', 'E', 'M'] →
    ∃ t, exec (.encaddr false true) s = .next t ∧ t.err = 0#2 ∧
      t.addr.readRange 0 14 = [0x9C#8, 0x94#8, 0x6E#8, 0xA0#8, 0x40#8, 0x40#8, 0xE0#8] ++
        [0x9C#8, 0x6E#8, 0x98#8, 0x8A#8, 0x9A#8, 0x40#8, 0x61#8]

/-- 41_address_encoder.md section 1, the closed form of the nine steps (marked derived there), for identifiers in the
grammar: the field as numbers, with no shift overflowing an octet; and no field when one is outside it. -/
def Obligations.AddressFieldClosedForm : Prop :=
  (∀ dst src dcall dn scall sn C M, Denotes dst dcall dn → Denotes src scall sn →
    ∃ a, encodeAddr dst src C M = some a ∧
      a.map BitVec.toNat =
        (spacePadded dcall).map (fun c => 2 * c.toNat) ++ [128 * C.toNat + 0x60 + 2 * dn] ++
        ((spacePadded scall).map (fun c => 2 * c.toNat) ++
          [128 * (1 - C.toNat) + 0x60 + 2 * sn + (1 - M.toNat)])) ∧
  ∀ dst src C M, ¬ ValidIdentifier dst ∨ ¬ ValidIdentifier src → encodeAddr dst src C M = none

/-- 41_address_encoder.md R137, R138, R140: the reserved bits, the two C bits and the low bits of ADDR after a
successful ENCADDR or MKFRM. -/
def Obligations.AddressFieldBitInvariants : Prop :=
  ∀ i M C s t, (i = .encaddr M C ∨ ∃ L X, i = .mkfrm L X M C) → exec i s = .next t → t.err = 0#2 →
    (t.addr.read 6).extractLsb' 5 2 = 3#2 ∧ (t.addr.read 13).extractLsb' 5 2 = 3#2 ∧
    (t.addr.read 6).getLsbD 7 = C ∧ (t.addr.read 13).getLsbD 7 = !C ∧
    ((t.addr.read 6).getLsbD 7 ^^ (t.addr.read 13).getLsbD 7) = true ∧
    (∀ a, a < 13 → (t.addr.read a).getLsbD 0 = false) ∧ (t.addr.read 13).getLsbD 0 = !M

/-- 41_address_encoder.md section 3, the round-trip law in its exact form (marked derived there; 90_conflicts.md C7). -/
def Obligations.AddressFieldRoundTrip : Prop :=
  ∀ i M C s t dcall dn scall sn, (i = .encaddr M C ∨ ∃ L X, i = .mkfrm L X M C) →
    Denotes (destination s) dcall dn → Denotes (source s) scall sn → exec i s = .next t →
    (t.addr.readRange 0 6).map (fun c : Octet => c >>> (1 : Nat)) = spacePadded dcall ∧
    (t.addr.readRange 7 6).map (fun c : Octet => c >>> (1 : Nat)) = spacePadded scall ∧
    (((t.addr.read 6) >>> (1 : Nat)) &&& 0x0F#8).toNat = dn ∧
    (((t.addr.read 13) >>> (1 : Nat)) &&& 0x0F#8).toNat = sn

/-- 41_address_encoder.md section 3, the dependence of the field on each input (marked derived there). -/
def Obligations.AddressFieldDependence : Prop :=
  (∀ dst src M a b k, encodeAddr dst src false M = some a → encodeAddr dst src true M = some b →
    a.getD k 0x00#8 ^^^ b.getD k 0x00#8 = if k = 6 ∨ k = 13 then 0x80#8 else 0x00#8) ∧
  (∀ dst src C a b k, encodeAddr dst src C false = some a → encodeAddr dst src C true = some b →
    a.getD k 0x00#8 ^^^ b.getD k 0x00#8 = if k = 13 then 0x01#8 else 0x00#8) ∧
  (∀ d d' src C M a b call call' n n', Denotes d call n → Denotes d' call' n' →
    encodeAddr d src C M = some a → encodeAddr d' src C M = some b →
    (∀ k, 7 ≤ k → a.getD k 0x00#8 = b.getD k 0x00#8) ∧ (n = n' → a.getD 6 0x00#8 = b.getD 6 0x00#8) ∧
    (a.getD 6 0x00#8 ^^^ b.getD 6 0x00#8) &&& 0xE1#8 = 0x00#8 ∧
    (call = call' → ∀ k, k < 6 → a.getD k 0x00#8 = b.getD k 0x00#8)) ∧
  ∀ dst s s' C M a b call call' n n', Denotes s call n → Denotes s' call' n' →
    encodeAddr dst s C M = some a → encodeAddr dst s' C M = some b →
    (∀ k, k < 7 → a.getD k 0x00#8 = b.getD k 0x00#8) ∧ (n = n' → a.getD 13 0x00#8 = b.getD 13 0x00#8) ∧
    (a.getD 13 0x00#8 ^^^ b.getD 13 0x00#8) &&& 0xE1#8 = 0x00#8 ∧
    (call = call' → ∀ k, 7 ≤ k → k < 13 → a.getD k 0x00#8 = b.getD k 0x00#8)

/-- 95_test_vectors.md section 1.1: the document's four end-to-end scenarios, S1 to S4. -/
def Obligations.DocumentScenarios : Prop :=
  encodeAddr (ascii ['N', 'J', '7', 'P']) (ascii ['N', '7', 'L', 'E', 'M']) true false =
    some ([0x9C#8, 0x94#8, 0x6E#8, 0xA0#8, 0x40#8, 0x40#8, 0xE0#8] ++
      [0x9C#8, 0x6E#8, 0x98#8, 0x8A#8, 0x9A#8, 0x40#8, 0x61#8]) ∧
  encodeAddr (ascii ['N', 'J', '7', 'P']) (ascii ['N', '7', 'L', 'E', 'M']) false false =
    some ([0x9C#8, 0x94#8, 0x6E#8, 0xA0#8, 0x40#8, 0x40#8, 0x60#8] ++
      [0x9C#8, 0x6E#8, 0x98#8, 0x8A#8, 0x9A#8, 0x40#8, 0xE1#8]) ∧
  encodeAddr (ascii ['N', 'J', '7', 'P']) (ascii ['N', '7', 'L', 'E', 'M', '-', '4']) true false =
    some ([0x9C#8, 0x94#8, 0x6E#8, 0xA0#8, 0x40#8, 0x40#8, 0xE0#8] ++
      [0x9C#8, 0x6E#8, 0x98#8, 0x8A#8, 0x9A#8, 0x40#8, 0x69#8]) ∧
  encodeAddr (ascii ['N', 'J', '7', 'P', '-', '1', '5']) (ascii ['N', '7', 'L', 'E', 'M']) false false =
    some ([0x9C#8, 0x94#8, 0x6E#8, 0xA0#8, 0x40#8, 0x40#8, 0x7E#8] ++
      [0x9C#8, 0x6E#8, 0x98#8, 0x8A#8, 0x9A#8, 0x40#8, 0xE1#8])

/-! ### ControlFieldBuilder -/

/-- 42_control_field.md R151 and R152: BLDCTL's encoding, the literal octet in its closed form, and the worked
examples. -/
def Obligations.BldctlWritesTheLiteralOctet : Prop :=
  decode 0b01100000#8 = some .bldctl ∧
  (∀ s, 0 ≤ s.ns.toInt ∧ s.ns.toInt < 8 →
    exec .bldctl s = .next { s with ctrl := BitVec.ofInt 8 (2 * s.ns.toInt), err := 0#2 }) ∧
  (∀ s, ¬ (0 ≤ s.ns.toInt ∧ s.ns.toInt < 8) →
    exec .bldctl s = .next { s with
      ctrl := BitVec.ofInt 8 ((if 0 ≤ s.nr.toInt ∧ s.nr.toInt < 8 then 32 * s.nr.toInt else 0) + 16 * s.pf.toNat)
      err := 0#2 }) ∧
  (∀ s, s.nr.toInt = 3 → s.ns.toInt = 5 → s.pf = 1#1 → exec .bldctl s = .next { s with ctrl := 0x0A#8, err := 0#2 }) ∧
  ∀ s, s.nr.toInt = 3 → s.ns.toInt = 8 → s.pf = 1#1 → exec .bldctl s = .next { s with ctrl := 0x70#8, err := 0#2 }

/-- 42_control_field.md R153 and R154: BLDCTLC's encoding, the combined octet, and the worked examples. -/
def Obligations.BldctlcWritesTheCombinedOctet : Prop :=
  decode 0b01100100#8 = some .bldctlc ∧
  (∀ s, exec .bldctlc s = .next { s with
      ctrl := BitVec.ofInt 8 ((if 0 ≤ s.nr.toInt ∧ s.nr.toInt < 8 then 32 * s.nr.toInt else 0) + 16 * s.pf.toNat +
        (if 0 ≤ s.ns.toInt ∧ s.ns.toInt < 8 then 2 * s.ns.toInt else 0))
      err := 0#2 }) ∧
  (∀ s, s.nr.toInt = 3 → s.ns.toInt = 5 → s.pf = 1#1 → exec .bldctlc s = .next { s with ctrl := 0x7A#8, err := 0#2 }) ∧
  ∀ s, s.nr.toInt = 7 → s.ns.toInt = 7 → s.pf = 1#1 → exec .bldctlc s = .next { s with ctrl := 0xFE#8, err := 0#2 }

/-- 42_control_field.md section 2 (marked derived there): when the two constructions agree, and its sample values. -/
def Obligations.ConstructionsAgreeExactlyWhen : Prop :=
  (∀ nr ns pf, ctlLiteral nr ns pf = ctlCombined nr ns pf ↔
    ¬ (0 ≤ ns ∧ ns < 8) ∨ (pf = false ∧ (nr = 0 ∨ ¬ (0 ≤ nr ∧ nr < 8)))) ∧
  [(0, 0, false), (3, 5, false), (3, 5, true), (7, 7, true), (5, 0, true), (3, 8, true), (3, -1, false), (7, 8, true),
      (8, 2, true), (8, 8, true), (-1, -1, false)].map
      (fun x : Int × Int × Bool => (ctlLiteral x.1 x.2.1 x.2.2, ctlCombined x.1 x.2.1 x.2.2)) =
    [(0x00#8, 0x00#8), (0x0A#8, 0x6A#8), (0x0A#8, 0x7A#8), (0x0E#8, 0xFE#8), (0x00#8, 0xB0#8), (0x70#8, 0x70#8),
      (0x60#8, 0x60#8), (0xF0#8, 0xF0#8), (0x04#8, 0x14#8), (0x10#8, 0x10#8), (0x00#8, 0x00#8)]

/-- 42_control_field.md section 2 (marked derived there): for every width SEQ_W of at least 4, a signed sequence number
lies in 0..7 exactly when the register's bits above bit 2 are all 0, and then its value is bits [2:0]. -/
def Obligations.SequenceNumberRangeTest : Prop :=
  ∀ w (v : BitVec w), 4 ≤ w →
    ((0 ≤ signed v ∧ signed v < 8) ↔ v >>> (3 : Nat) = 0#w) ∧
    (v >>> (3 : Nat) = 0#w → signed v = ((v.extractLsb' 0 3).toNat : Int))

/-- 42_control_field.md section 2 (marked derived there): the frame-type bit of every control octet the block computes
is 0. -/
def Obligations.FrameTypeBitIsZero : Prop :=
  (∀ nr ns pf, (ctlLiteral nr ns pf).getLsbD 0 = false ∧ (ctlCombined nr ns pf).getLsbD 0 = false) ∧
  ∀ i s t, (i = .bldctl ∨ i = .bldctlc ∨ ∃ L X M C, i = .mkfrm L X M C) → exec i s = .next t → t.err = 0#2 →
    t.ctrl.getLsbD 0 = false

/-! ### ChecksumEngine -/

/-- 43_checksum.md section 2: FCS's encoding, its result for both selectors, the empty body and the worked examples.
The CRC's values are those of the algorithm the spec takes from general knowledge (G2, log entry 9). -/
def Obligations.FcsWritesTheCrcOfItsBody : Prop :=
  (∀ S, decode (if S then 0b10010000#8 else 0b10000000#8) = some (.fcs S)) ∧
  (∀ s, exec (.fcs false) s =
    .next { s with fcsr := crc16X25 (s.payload.readRange 0 s.paylen.toNat), err := 0#2 }) ∧
  (∀ s, exec (.fcs true) s =
    .next { s with
      fcsr := crc16X25 (s.addr.readRange 0 14 ++ [s.ctrl] ++ [s.pid] ++ s.payload.readRange 0 s.paylen.toNat)
      err := 0#2 }) ∧
  (∀ s, s.paylen = 0#9 → exec (.fcs false) s = .next { s with fcsr := 0x0000#16, err := 0#2 }) ∧
  (∀ s, s.payload.readRange 0 s.paylen.toNat = ascii ['1', '2', '3', '4', '5', '6', '7', '8', '9'] →
    exec (.fcs false) s = .next { s with fcsr := 0x906E#16, err := 0#2 }) ∧
  ∀ s, s.addr.readRange 0 14 = [0x9C#8, 0x94#8, 0x6E#8, 0xA0#8, 0x40#8, 0x40#8, 0xE0#8] ++
      [0x9C#8, 0x6E#8, 0x98#8, 0x8A#8, 0x9A#8, 0x40#8, 0x61#8] → s.ctrl = 0x00#8 → s.pid = 0xF0#8 → s.paylen = 0#9 →
    exec (.fcs true) s = .next { s with fcsr := 0xC3DB#16, err := 0#2 }

/-- 43_checksum.md section 1: the two check octets, most significant first, and the example. The CRC's values are those
of the algorithm the spec takes from general knowledge (G2, log entry 9). -/
def Obligations.FcsOctetsHighFirst : Prop :=
  (∀ text, (fcsOctets text).map BitVec.toNat = [(crc16X25 text).toNat / 256, (crc16X25 text).toNat % 256]) ∧
  fcsOctets ([0x9C#8, 0x94#8, 0x6E#8, 0xA0#8, 0x40#8, 0x40#8, 0xE0#8, 0x9C#8] ++
    [0x6E#8, 0x98#8, 0x8A#8, 0x9A#8, 0x40#8, 0x61#8, 0x00#8, 0xF0#8]) = [0xC3#8, 0xDB#8]

/-- 43_checksum.md section 1 and 95_test_vectors.md section 2.4: the check values of CRC-16/X-25. -/
def Obligations.CrcCheckValues : Prop :=
  crc16X25 [] = 0x0000#16 ∧ crc16X25 [0x00#8] = 0xF078#16 ∧ crc16X25 [0xFF#8] = 0xFF00#16 ∧
  crc16X25 [0x7E#8] = 0x6A81#16 ∧ crc16X25 (ascii ['A']) = 0xA3F5#16 ∧ crc16X25 (ascii ['A', 'B']) = 0x31EF#16 ∧
  crc16X25 (ascii ['1', '2', '3', '4', '5', '6', '7', '8', '9']) = 0x906E#16 ∧
  crc16X25 (ascii ['H', 'E', 'L', 'L', 'O']) = 0xDA75#16

/-- 43_checksum.md section 1: the shift-right algorithm is the CRC of the document's four parameters (polynomial 0x1021,
init 0xFFFF, input and output reflected, final XOR 0xFFFF), for every octet sequence. The reading of "reflected" is the
one the spec marks as general knowledge (93_implementation_defined.md G2, log entry 9). -/
def Obligations.CrcRealisesItsParameters : Prop :=
  ∀ text, crc16X25 text = crcByParameters text

/-- 43_checksum.md section 3, "two bodies of equal length that differ in exactly one bit have different CRCs" (marked
derived there). -/
def Obligations.SingleBitChangeChangesTheCrc : Prop :=
  ∀ before after (c : Octet) k, k < 8 →
    crc16X25 (before ++ [c] ++ after) ≠ crc16X25 (before ++ [c ^^^ (0x01#8 <<< k)] ++ after)

/-! ### FrameAssembler -/

/-- 44_frame_assembler.md R192, and section 2 for the values: ASMFRM's encoding, its whole result, that it fits FRMLEN,
that the octets of FRAME from the frame's end on stay, and that nothing beside FRAME, FRMLEN, FCSR and STATUS.ERR is
written. -/
def Obligations.AsmfrmWritesTheFrame : Prop :=
  (∀ L, decode (if L then 0b10101000#8 else 0b10100000#8) = some (.asmfrm L)) ∧
  ∀ L s body, body = s.addr.readRange 0 14 ++ [s.ctrl] ++ [s.pid] ++ s.payload.readRange 0 s.paylen.toNat →
    ∃ t, exec (.asmfrm L) s = .next t ∧
      t = { s with frame := t.frame, frmlen := t.frmlen, fcsr := crc16X25 body, err := 0#2 } ∧
      t.frmlen.toNat = (frameOctets L body).length ∧ t.frame.readRange 0 t.frmlen.toNat = frameOctets L body ∧
      ∀ a, t.frmlen.toNat ≤ a → t.frame.read a = s.frame.read a

/-- 30_encoding.md section 2 (the frame's table) and 44_frame_assembler.md section 4 (its laws, marked derived there):
where every part of the frame stands after ASMFRM or a successful MKFRM, the payload verbatim, the check sequence over
the body, and that the leading flag changes nothing else. -/
def Obligations.FrameLayout : Prop :=
  (∀ i L s t, (i = .asmfrm L ∨ ∃ X M C, i = .mkfrm L X M C) → exec i s = .next t → t.err = 0#2 →
    t.frmlen.toNat = 19 + s.paylen.toNat + L.toNat ∧
    (L = true → t.frame.read 0 = 0x7E#8) ∧ (L = false → t.frame.read 0 = t.addr.read 0) ∧
    t.frame.readRange L.toNat 14 = t.addr.readRange 0 14 ∧ t.frame.read (L.toNat + 14) = t.ctrl ∧
    t.frame.read (L.toNat + 15) = s.pid ∧
    t.frame.readRange (L.toNat + 16) s.paylen.toNat = s.payload.readRange 0 s.paylen.toNat ∧
    t.frame.readRange (t.frmlen.toNat - 3) 2 =
      fcsOctets (t.frame.readRange L.toNat (t.frmlen.toNat - 3 - L.toNat)) ∧
    t.fcsr = crc16X25 (t.frame.readRange L.toNat (t.frmlen.toNat - 3 - L.toNat)) ∧
    t.frame.read (t.frmlen.toNat - 1) = 0x7E#8) ∧
  ∀ s t t', exec (.asmfrm false) s = .next t → exec (.asmfrm true) s = .next t' →
    t'.frmlen.toNat = t.frmlen.toNat + 1 ∧
    t'.frame.readRange 0 t'.frmlen.toNat = 0x7E#8 :: t.frame.readRange 0 t.frmlen.toNat

/-- 44_frame_assembler.md R195 and R196, and section 3 for the values: MKFRM's encoding, its whole result when both
identifiers encode, ADDR and CTRL being what went into the frame, and its result when one does not. -/
def Obligations.MkfrmBuildsTheWholeFrame : Prop :=
  (∀ L X M C, decode (BitVec.ofNat 8 (0xC0 + 8 * L.toNat + 4 * X.toNat + 2 * M.toNat + C.toNat)) =
    some (.mkfrm L X M C)) ∧
  (∀ L X M C s r c body,
    encodeAddr (s.dstid.readRange 0 s.dstlen.toNat) (s.srcid.readRange 0 s.srclen.toNat) C M = some r →
    c = (if X then ctlCombined s.nr.toInt s.ns.toInt (s.pf == 1#1) else ctlLiteral s.nr.toInt s.ns.toInt (s.pf == 1#1)) →
    body = r ++ [c] ++ [s.pid] ++ s.payload.readRange 0 s.paylen.toNat →
    ∃ t, exec (.mkfrm L X M C) s = .next t ∧
      t = { s with
        addr := t.addr, ctrl := c, frame := t.frame, frmlen := t.frmlen, fcsr := crc16X25 body, err := 0#2 } ∧
      t.addr.readRange 0 14 = r ∧ (∀ a, 14 ≤ a → t.addr.read a = s.addr.read a) ∧
      t.frmlen.toNat = (frameOctets L body).length ∧ t.frame.readRange 0 t.frmlen.toNat = frameOctets L body ∧
      ∀ a, t.frmlen.toNat ≤ a → t.frame.read a = s.frame.read a) ∧
  ∀ L X M C s,
    encodeAddr (s.dstid.readRange 0 s.dstlen.toNat) (s.srcid.readRange 0 s.srclen.toNat) C M = none →
    exec (.mkfrm L X M C) s = .next { s with frmlen := 0#10, err := 1#2 }

/-- 44_frame_assembler.md sections 2 and 3: the worked examples of ASMFRM and MKFRM, as operations of the machine. Their
CRC values are those of the algorithm the spec takes from general knowledge (93_implementation_defined.md G2, log
entry 9). -/
def Obligations.WorkedFrames : Prop :=
  (∀ s, s.addr.readRange 0 14 = [0x9C#8, 0x94#8, 0x6E#8, 0xA0#8, 0x40#8, 0x40#8, 0xE0#8] ++
      [0x9C#8, 0x6E#8, 0x98#8, 0x8A#8, 0x9A#8, 0x40#8, 0x61#8] → s.ctrl = 0x0A#8 → s.pid = 0xF0#8 →
    s.payload.readRange 0 s.paylen.toNat = ascii ['H', 'E', 'L', 'L', 'O'] →
    ∃ t, exec (.asmfrm true) s = .next t ∧ t.frmlen = 25#10 ∧ t.fcsr = 0x95ED#16 ∧
      t.frame.readRange 0 25 = [0x7E#8, 0x9C#8, 0x94#8, 0x6E#8, 0xA0#8, 0x40#8, 0x40#8, 0xE0#8, 0x9C#8, 0x6E#8] ++
        [0x98#8, 0x8A#8, 0x9A#8, 0x40#8, 0x61#8, 0x0A#8, 0xF0#8, 0x48#8, 0x45#8, 0x4C#8, 0x4C#8, 0x4F#8] ++
        [0x95#8, 0xED#8, 0x7E#8]) ∧
  ∀ s, s.dstid.readRange 0 s.dstlen.toNat = ascii ['N', 'J', '7', 'P'] →
    s.srcid.readRange 0 s.srclen.toNat = ascii ['N', '7', 'L', 'E', 'M'] →
    s.nr = 0#8 → s.ns = 0#8 → s.pf = 0#1 → s.pid = 0xF0#8 → s.paylen = 0#9 →
    ∃ t, exec (.mkfrm true false false true) s = .next t ∧ t.err = 0#2 ∧ t.ctrl = 0x00#8 ∧ t.fcsr = 0xC3DB#16 ∧
      t.frmlen = 20#10 ∧
      t.addr.readRange 0 14 = [0x9C#8, 0x94#8, 0x6E#8, 0xA0#8, 0x40#8, 0x40#8, 0xE0#8] ++
        [0x9C#8, 0x6E#8, 0x98#8, 0x8A#8, 0x9A#8, 0x40#8, 0x61#8] ∧
      t.frame.readRange 0 20 = [0x7E#8, 0x9C#8, 0x94#8, 0x6E#8, 0xA0#8, 0x40#8, 0x40#8, 0xE0#8, 0x9C#8, 0x6E#8] ++
        [0x98#8, 0x8A#8, 0x9A#8, 0x40#8, 0x61#8, 0x00#8, 0xF0#8, 0xC3#8, 0xDB#8, 0x7E#8]

/-- 44_frame_assembler.md section 3, the law of the three-command sequence (marked derived there): from every state,
as steps of the machine, MKFRM ends where ENCADDR, then BLDCTL or BLDCTLC, then ASMFRM end, and when ENCADDR fails, in
the state it leaves with FRMLEN = 0. The stream the steps run over is the model's choice (log entry 3). -/
def Obligations.MkfrmEqualsTheSequence : Prop :=
  ∀ s rest L X M C,
    (ValidIdentifier (destination s) → ValidIdentifier (source s) →
      ∃ t, core.run 1 { s with pending := .cmd (encode (.mkfrm L X M C)).toNat :: rest } = .next t ∧ t.err = 0#2 ∧
        core.run 3 { s with
          pending := .cmd (encode (.encaddr M C)).toNat :: .cmd (encode (if X then .bldctlc else .bldctl)).toNat ::
            .cmd (encode (.asmfrm L)).toNat :: rest } = .next t) ∧
    (¬ ValidIdentifier (destination s) ∨ ¬ ValidIdentifier (source s) →
      ∃ t, core.run 1 { s with pending := .cmd (encode (.encaddr M C)).toNat :: rest } = .next t ∧ t.err = 1#2 ∧
        core.run 1 { s with pending := .cmd (encode (.mkfrm L X M C)).toNat :: rest } =
          .next { t with frmlen := 0#10 })

/-! ### The whole machine -/

/-- 10_state.md R38: the operand registers change only by host writes and by reset. Every other step, a command of any
word among them, leaves all ten as they are. -/
def Obligations.OnlyHostWritesAndResetChangeOperands : Prop :=
  ∀ s t, step s = .next t →
    (∀ a rest, s.pending = a :: rest → a ≠ .reset ∧ (∀ n v, n ≠ 0 → a ≠ .wr n v) ∧ ∀ n i v, a ≠ .wrOctet n i v) →
    t.dstlen = s.dstlen ∧ t.dstid = s.dstid ∧ t.srclen = s.srclen ∧ t.srcid = s.srcid ∧ t.nr = s.nr ∧ t.ns = s.ns ∧
    t.pf = s.pf ∧ t.pid = s.pid ∧ t.paylen = s.paylen ∧ t.payload = s.payload

/-- 10_state.md section 4, the write sets (marked derived there): what each command leaves unchanged, to the octet. -/
def Obligations.CommandsWriteOnlyTheirWriteSet : Prop :=
  ∀ i s t, exec i s = .next t →
    match i with
    | .parse _ => t = { s with plen := t.plen, pcall := t.pcall, pssid := t.pssid, err := t.err } ∧
        ∀ a, 6 ≤ a → t.pcall.read a = s.pcall.read a
    | .encaddr _ _ => t = { s with addr := t.addr, err := t.err } ∧ ∀ a, 14 ≤ a → t.addr.read a = s.addr.read a
    | .bldctl => t = { s with ctrl := t.ctrl, err := t.err }
    | .bldctlc => t = { s with ctrl := t.ctrl, err := t.err }
    | .fcs _ => t = { s with fcsr := t.fcsr, err := t.err }
    | .asmfrm _ => t = { s with fcsr := t.fcsr, frmlen := t.frmlen, frame := t.frame, err := t.err } ∧
        ∀ a, t.frmlen.toNat ≤ a → t.frame.read a = s.frame.read a
    | .mkfrm _ _ _ _ =>
        t = { s with
          addr := t.addr, ctrl := t.ctrl, fcsr := t.fcsr, frmlen := t.frmlen, frame := t.frame, err := t.err } ∧
        (∀ a, 14 ≤ a → t.addr.read a = s.addr.read a) ∧
        (t.err = 0#2 → ∀ a, t.frmlen.toNat ≤ a → t.frame.read a = s.frame.read a) ∧
        (t.err ≠ 0#2 → t.frame = s.frame)

/-- 10_state.md section 4, the read sets (marked derived there), with 00_scope.md section 5 (determinism): two states
that agree on what a command reads get the same outcome, and on success the same results, whatever else they hold. -/
def Obligations.CommandsDependOnlyOnTheirReadSet : Prop :=
  ∀ i s u s' u', exec i s = .next s' → exec i u = .next u' →
    (match i with
      | .parse S => identifier S s = identifier S u
      | .encaddr _ _ => destination s = destination u ∧ source s = source u
      | .bldctl => s.nr = u.nr ∧ s.ns = u.ns ∧ s.pf = u.pf
      | .bldctlc => s.nr = u.nr ∧ s.ns = u.ns ∧ s.pf = u.pf
      | .fcs false => payloadOctets s = payloadOctets u
      | .fcs true => addressField s = addressField u ∧ s.ctrl = u.ctrl ∧ s.pid = u.pid ∧
          payloadOctets s = payloadOctets u
      | .asmfrm _ => addressField s = addressField u ∧ s.ctrl = u.ctrl ∧ s.pid = u.pid ∧
          payloadOctets s = payloadOctets u
      | .mkfrm _ _ _ _ => destination s = destination u ∧ source s = source u ∧ s.nr = u.nr ∧ s.ns = u.ns ∧
          s.pf = u.pf ∧ s.pid = u.pid ∧ payloadOctets s = payloadOctets u) →
    s'.err = u'.err ∧ (s'.err = 0#2 →
      match i with
      | .parse _ => s'.plen = u'.plen ∧ s'.pcall.readRange 0 6 = u'.pcall.readRange 0 6 ∧ s'.pssid = u'.pssid
      | .encaddr _ _ => addressField s' = addressField u'
      | .bldctl => s'.ctrl = u'.ctrl
      | .bldctlc => s'.ctrl = u'.ctrl
      | .fcs _ => s'.fcsr = u'.fcsr
      | .asmfrm _ => s'.fcsr = u'.fcsr ∧ s'.frmlen = u'.frmlen ∧
          s'.frame.readRange 0 s'.frmlen.toNat = u'.frame.readRange 0 u'.frmlen.toNat
      | .mkfrm _ _ _ _ => addressField s' = addressField u' ∧ s'.ctrl = u'.ctrl ∧ s'.fcsr = u'.fcsr ∧
          s'.frmlen = u'.frmlen ∧ s'.frame.readRange 0 s'.frmlen.toNat = u'.frame.readRange 0 u'.frmlen.toNat)

/-- 60_exceptions.md R211 and R212: every command of every 8-bit word completes and leaves in STATUS the code of its
outcome, and a host read or write of a register does not change STATUS. -/
def Obligations.EveryCommandReportsItsOutcome : Prop :=
  (∀ s rest n, n < 256 → s.pending = .cmd n :: rest →
    ∃ t, step s = .next t ∧
      match decode (BitVec.ofNat 8 n) with
      | none => t.status = 2#8
      | some (.parse S) => (ValidIdentifier (identifier S s) → t.status = 0#8) ∧
          (¬ ValidIdentifier (identifier S s) → t.status = 1#8)
      | some (.encaddr _ _) =>
          (ValidIdentifier (destination s) ∧ ValidIdentifier (source s) → t.status = 0#8) ∧
          (¬ ValidIdentifier (destination s) ∨ ¬ ValidIdentifier (source s) → t.status = 1#8)
      | some (.mkfrm _ _ _ _) =>
          (ValidIdentifier (destination s) ∧ ValidIdentifier (source s) → t.status = 0#8) ∧
          (¬ ValidIdentifier (destination s) ∨ ¬ ValidIdentifier (source s) → t.status = 1#8)
      | some .bldctl => t.status = 0#8
      | some .bldctlc => t.status = 0#8
      | some (.fcs _) => t.status = 0#8
      | some (.asmfrm _) => t.status = 0#8) ∧
  ∀ s t a rest, s.pending = a :: rest → step s = .next t →
    ((∃ n v, n ≠ 0 ∧ a = .wr n v) ∨ (∃ n i v, a = .wrOctet n i v) ∨ (∃ n, a = .rd n) ∨ ∃ n i, a = .rdOctet n i) →
    t.status = s.status

/-- 20_memory.md section 3, side effects and idempotency (marked derived there): a command issued twice in a row leaves
the state that one leaves. Buffers in canonical form are the model's own premise, kept by every step. -/
def Obligations.RepeatingACommandChangesNothing : Prop :=
  ∀ i s t, s.BuffersCanonical → exec i s = .next t → exec i t = .next t

/-- 10_state.md section 2: an octet of DSTID, SRCID or PAYLOAD at or beyond its length is state that no command reads, so
writing one changes nothing about what a command does, and it is still there afterwards; no command reads FRAME at all;
the host reads an octet whatever the length; and a host write of a length register changes only that register. The
model's own in it: the stream, `pending` (log entry 3), the record of read values, `returned` (log entry 4), and the bounds
511, 531 and 2^9 of the default PAYLEN_W (log entry 2). -/
def Obligations.OctetsBeyondTheLengthAreNotRead : Prop :=
  (∀ i s t k b, exec i s = .next t → s.dstlen.toNat ≤ k →
    exec i { s with dstid := s.dstid.write k b } = .next { t with dstid := s.dstid.write k b }) ∧
  (∀ i s t k b, exec i s = .next t → s.srclen.toNat ≤ k →
    exec i { s with srcid := s.srcid.write k b } = .next { t with srcid := s.srcid.write k b }) ∧
  (∀ i s t k b, exec i s = .next t → s.paylen.toNat ≤ k →
    exec i { s with payload := s.payload.write k b } = .next { t with payload := s.payload.write k b }) ∧
  (∀ i s t m, exec i s = .next t →
    ∃ m', exec i { s with frame := m } = .next { t with frame := m' } ∧
      ∀ a, t.frmlen.toNat ≤ a → m'.read a = m.read a) ∧
  (∀ s rest k,
    (k < 15 → s.pending = .rdOctet 3 k :: rest →
      step s = .next { s with pending := rest, returned := (s.dstid.read k).toNat :: s.returned }) ∧
    (k < 15 → s.pending = .rdOctet 5 k :: rest →
      step s = .next { s with pending := rest, returned := (s.srcid.read k).toNat :: s.returned }) ∧
    (k < 511 → s.pending = .rdOctet 11 k :: rest →
      step s = .next { s with pending := rest, returned := (s.payload.read k).toNat :: s.returned }) ∧
    (k < 531 → s.pending = .rdOctet 16 k :: rest →
      step s = .next { s with pending := rest, returned := (s.frame.read k).toNat :: s.returned })) ∧
  ∀ s rest v, (v < 2 ^ 4 → s.pending = .wr 2 v :: rest →
      step s = .next { s with pending := rest, dstlen := BitVec.ofNat 4 v }) ∧
    (v < 2 ^ 4 → s.pending = .wr 4 v :: rest →
      step s = .next { s with pending := rest, srclen := BitVec.ofNat 4 v }) ∧
    (v < 2 ^ 9 → s.pending = .wr 10 v :: rest →
      step s = .next { s with pending := rest, paylen := BitVec.ofNat 9 v })

/-- 00_scope.md section 4, FRM_MAX and the width of FRMLEN: for every PAYLEN_W of at least 1, the longest frame fits
FRMLEN, which is PAYLEN_W + 1 bits wide from 5 on and 6 bits below. -/
def Obligations.FrameLengthAlwaysFits : Prop :=
  ∀ w, 1 ≤ w → Config.frmMaxOf w = 1 + 14 + 1 + 1 + (2 ^ w - 1) + 2 + 1 ∧
    Config.frmMaxOf w < 2 ^ Config.frmlenWOf w ∧ (5 ≤ w → Config.frmlenWOf w = w + 1) ∧
    (w < 5 → Config.frmlenWOf w = 6)

/-! ### Invariants -/

/-- The four invariants below hold right after reset. -/
def Obligations.ResetSatisfiesTheInvariants : Prop :=
  State.reset.BuffersCanonical ∧ State.reset.StatusLegal ∧ State.reset.StationIdValid ∧ State.reset.FrameComplete

/-- 20_memory.md section 1: no step puts an octet beyond a buffer's size, and every buffer keeps its canonical form (the
form is the model's own). -/
def Obligations.StepKeepsBuffersCanonical : Prop :=
  ∀ s t, s.BuffersCanonical → step s = .next t → t.BuffersCanonical

/-- 10_state.md section 1, STATUS: the value 3 of ERR is never produced, and bits 7:2 read as 0 in every state. -/
def Obligations.StepKeepsStatusLegal : Prop :=
  (∀ s t, s.StatusLegal → step s = .next t → t.StatusLegal) ∧
  (∀ s : State, s.status.extractLsb' 2 6 = 0#6 ∧ s.status.extractLsb' 0 2 = s.err) ∧
  ∀ s : State, s.StatusLegal → s.status = 0#8 ∨ s.status = 1#8 ∨ s.status = 2#8

/-- 10_state.md section 1 (PLEN, PCALL, PSSID) and 40_callsign_parser.md section 3 (d): at all times these registers
hold what reset left or a StationId, whatever the host does. -/
def Obligations.StepKeepsStationIdValid : Prop :=
  ∀ s t, s.StationIdValid → step s = .next t → t.StationIdValid

/-- 10_state.md section 1 (FRMLEN, FRAME), 30_encoding.md section 2 and 60_exceptions.md section 2 ("no partial frame"):
at all times FRMLEN is 0 or FRAME[0..FRMLEN-1] is one complete frame with a check sequence that holds, whatever the host
does. -/
def Obligations.StepKeepsFrameComplete : Prop :=
  ∀ s t, s.FrameComplete → step s = .next t → t.FrameComplete
end

