-- ==== Sys2Proof/Laws/Memory.lean ====
section
/-!
SUPPORT. The laws of a buffer: what a read gives after a write, that every write keeps the canonical form and the
buffer's size, and that a canonical buffer is determined by its reads.
-/

namespace Sys2Proof.Machine

@[simp] theorem Memory.read_nil (a : Nat) : Memory.read [] a = Memory.blank := rfl

theorem Memory.read_cons (c : Host.Cell) (m : Memory) (a : Nat) :
    Memory.read (c :: m) a = if c.1 = a then c.2 else Memory.read m a := rfl

theorem Memory.read_erase (m : Memory) (i a : Nat) :
    (m.erase i).read a = if a = i then Memory.blank else m.read a := by
  induction m with
  | nil => simp [Memory.erase]
  | cons c m ih =>
    unfold Memory.erase at ih ⊢
    by_cases hc : c.1 = i
    · simp only [List.filter_cons, hc, bne_self_eq_false, Bool.false_eq_true, if_false, ih, Memory.read_cons]
      grind
    · simp only [List.filter_cons, bne_iff_ne, ne_eq, hc, not_false_eq_true, if_true, Memory.read_cons, ih]
      grind

theorem Memory.read_place (m : Memory) (i a : Nat) (b : Octet) (h : ∀ c ∈ m, c.1 ≠ i) :
    (m.place i b).read a = if a = i then b else m.read a := by
  induction m with
  | nil => simp [Memory.place, Memory.read_cons, eq_comm]
  | cons c m ih =>
    simp only [List.mem_cons, forall_eq_or_imp] at h
    unfold Memory.place
    split
    · simp only [Memory.read_cons]; grind
    · simp only [Memory.read_cons, ih h.2]; grind

theorem Memory.key_erase (m : Memory) (i : Nat) : ∀ c ∈ m.erase i, c.1 ≠ i := by
  intro c hc
  simp only [Memory.erase, List.mem_filter, bne_iff_ne] at hc
  exact hc.2

theorem Memory.mem_erase {m : Memory} {i : Nat} {c : Host.Cell} (h : c ∈ m.erase i) : c ∈ m :=
  (List.mem_filter.mp h).1

theorem Memory.mem_place {m : Memory} {i : Nat} {b : Octet} {c : Host.Cell} (h : c ∈ m.place i b) :
    c = (i, b) ∨ c ∈ m := by
  induction m with
  | nil => simpa [Memory.place] using h
  | cons d m ih =>
    unfold Memory.place at h
    split at h
    · simpa using h
    · rcases List.mem_cons.mp h with h | h
      · exact .inr (by simp [h])
      · exact (ih h).imp id (fun h => List.mem_cons_of_mem _ h)

/-- The law of one write: the index written reads as the octet, and every other index reads as before. -/
theorem Memory.read_write (m : Memory) (i a : Nat) (b : Octet) :
    (m.write i b).read a = if a = i then b else m.read a := by
  unfold Memory.write
  split
  · rename_i hb; rw [Memory.read_erase, hb]
  · rw [Memory.read_place _ _ _ _ (m.key_erase i), Memory.read_erase]; grind

@[simp] theorem Memory.read_write_same (m : Memory) (i : Nat) (b : Octet) : (m.write i b).read i = b := by
  simp [Memory.read_write]

theorem Memory.read_write_of_ne (m : Memory) {i a : Nat} (b : Octet) (h : a ≠ i) :
    (m.write i b).read a = m.read a := by
  simp [Memory.read_write, h]

/-- The law of a write of a sequence: its octets stand from `i` on, and every index outside reads as before. -/
theorem Memory.read_writeRange (m : Memory) (i a : Nat) (s : List Octet) :
    (m.writeRange i s).read a = if h : i ≤ a ∧ a < i + s.length then s[a - i] else m.read a := by
  induction s generalizing m i with
  | nil =>
    have h : ¬ (i ≤ a ∧ a < i + ([] : List Octet).length) := by simp
    simp only [Memory.writeRange, h, dif_neg, not_false_eq_true]
  | cons b s ih =>
    simp only [Memory.writeRange, ih, Memory.read_write, List.length_cons]
    by_cases h1 : i + 1 ≤ a ∧ a < i + 1 + s.length
    · have h2 : i ≤ a ∧ a < i + (s.length + 1) := by omega
      have h3 : a - i = (a - (i + 1)) + 1 := by omega
      simp only [h1, h2, and_self, dif_pos, h3, List.getElem_cons_succ]
    · by_cases h4 : a = i
      · subst h4
        simp
      · have h2 : ¬ (i ≤ a ∧ a < i + (s.length + 1)) := by omega
        simp only [h1, h2, dif_neg, not_false_eq_true, h4, if_false]

theorem Memory.read_writeRange_of_ge (m : Memory) {a : Nat} (s : List Octet) (h : s.length ≤ a) :
    (m.writeRange 0 s).read a = m.read a := by
  rw [Memory.read_writeRange, dif_neg (by omega)]

theorem Memory.read_writeRange_of_lt (m : Memory) {a : Nat} (s : List Octet) (h : a < s.length) :
    (m.writeRange 0 s).read a = s[a] := by
  rw [Memory.read_writeRange, dif_pos (by omega)]; rfl

@[simp] theorem Memory.length_readRange (m : Memory) (i n : Nat) : (m.readRange i n).length = n := by
  simp [Memory.readRange]

theorem Memory.getElem_readRange (m : Memory) (i n k : Nat) (h : k < (m.readRange i n).length) :
    (m.readRange i n)[k] = m.read (i + k) := by
  simp [Memory.readRange]

theorem Memory.readRange_congr {m m' : Memory} {i n : Nat} (h : ∀ k < n, m.read (i + k) = m'.read (i + k)) :
    m.readRange i n = m'.readRange i n := by
  apply List.ext_getElem (by simp)
  intro k h1 _
  simp only [Memory.length_readRange] at h1
  simp only [Memory.getElem_readRange, h k h1]

/-- A sequence written at the start of a buffer is read back whole. -/
theorem Memory.readRange_writeRange (m : Memory) (s : List Octet) :
    (m.writeRange 0 s).readRange 0 s.length = s := by
  apply List.ext_getElem (by simp)
  intro k _ h2
  rw [Memory.getElem_readRange, Nat.zero_add, Memory.read_writeRange_of_lt _ _ h2]

theorem Memory.wf_nil : Memory.wf [] := ⟨List.Pairwise.nil, by simp⟩

theorem Memory.wf_erase {m : Memory} (i : Nat) (h : m.wf) : (m.erase i).wf :=
  ⟨h.1.filter _, fun c hc => h.2 c (Memory.mem_erase hc)⟩

theorem Memory.wf_place {m : Memory} {i : Nat} {b : Octet} (h : m.wf) (hi : ∀ c ∈ m, c.1 ≠ i)
    (hb : b ≠ Memory.blank) : (m.place i b).wf := by
  refine ⟨?_, fun c hc => (Memory.mem_place hc).elim (fun h => h ▸ hb) (h.2 c)⟩
  have hs := h.1
  clear h
  induction m with
  | nil => simp [Memory.place]
  | cons c m ih =>
    simp only [List.mem_cons, forall_eq_or_imp] at hi
    rw [List.pairwise_cons] at hs
    unfold Memory.place
    split
    · rename_i hlt
      refine List.pairwise_cons.mpr ⟨?_, List.pairwise_cons.mpr hs⟩
      intro d hd
      rcases List.mem_cons.mp hd with rfl | hd
      · exact hlt
      · exact Nat.lt_trans hlt (hs.1 d hd)
    · refine List.pairwise_cons.mpr ⟨?_, ih hi.2 hs.2⟩
      intro d hd
      rcases Memory.mem_place hd with rfl | hd
      · have := hi.1; simp only; omega
      · exact hs.1 d hd

/-- Every write keeps the canonical form. -/
theorem Memory.wf_write {m : Memory} (i : Nat) (b : Octet) (h : m.wf) : (m.write i b).wf := by
  unfold Memory.write
  split
  · exact Memory.wf_erase i h
  · exact Memory.wf_place (Memory.wf_erase i h) (m.key_erase i) ‹_›

/-- Every write of a sequence keeps the canonical form. -/
theorem Memory.wf_writeRange {m : Memory} (i : Nat) (s : List Octet) (h : m.wf) : (m.writeRange i s).wf := by
  induction s generalizing m i with
  | nil => exact h
  | cons b s ih => exact ih (i + 1) (Memory.wf_write i b h)

theorem Memory.within_write {m : Memory} {n i : Nat} (b : Octet) (h : m.within n) (hi : i < n) :
    (m.write i b).within n := by
  intro c hc
  unfold Memory.write at hc
  split at hc
  · exact h c (Memory.mem_erase hc)
  · rcases Memory.mem_place hc with rfl | hc
    · exact hi
    · exact h c (Memory.mem_erase hc)

theorem Memory.within_writeRange {m : Memory} {n : Nat} (i : Nat) (s : List Octet) (h : m.within n)
    (hi : i + s.length ≤ n) : (m.writeRange i s).within n := by
  induction s generalizing m i with
  | nil => exact h
  | cons b s ih =>
    simp only [List.length_cons] at hi
    exact ih (i + 1) (Memory.within_write b h (by omega)) (by omega)

/-- In a canonical buffer, an index that reads as something else than an unlisted one is listed. -/
theorem Memory.read_of_mem {m : Memory} (h : m.wf) {c : Host.Cell} (hc : c ∈ m) : m.read c.1 = c.2 := by
  have hs := h.1
  clear h
  induction m with
  | nil => simp at hc
  | cons d m ih =>
    rw [List.pairwise_cons] at hs
    rw [Memory.read_cons]
    rcases List.mem_cons.mp hc with rfl | hc
    · simp
    · have := hs.1 c hc
      rw [if_neg (by omega)]
      exact ih hc hs.2

theorem Memory.mem_of_read {m : Memory} {i : Nat} (h : m.read i ≠ Memory.blank) : (i, m.read i) ∈ m := by
  induction m with
  | nil => simp at h
  | cons d m ih =>
    rw [Memory.read_cons] at h ⊢
    split at h
    · rename_i hd; subst hd; rw [if_pos rfl]; exact List.mem_cons_self
    · rename_i hd; rw [if_neg hd]; exact List.mem_cons_of_mem _ (ih h)

/-- Two canonical buffers that read alike are equal. -/
theorem Memory.eq_of_read {m m' : Memory} (h : m.wf) (h' : m'.wf) (hr : ∀ i, m.read i = m'.read i) : m = m' := by
  have hmem : ∀ c, c ∈ m ↔ c ∈ m' := by
    intro c
    constructor
    · intro hc
      have h1 := Memory.read_of_mem h hc
      have h2 : m'.read c.1 ≠ Memory.blank := by rw [← hr, h1]; exact h.2 c hc
      have h3 := Memory.mem_of_read h2
      rwa [← hr, h1] at h3
    · intro hc
      have h1 := Memory.read_of_mem h' hc
      have h2 : m.read c.1 ≠ Memory.blank := by rw [hr, h1]; exact h'.2 c hc
      have h3 := Memory.mem_of_read h2
      rwa [hr, h1] at h3
  have hn : m.Nodup := h.1.imp (fun {a b} hab heq => by simp [heq] at hab)
  have hn' : m'.Nodup := h'.1.imp (fun {a b} hab heq => by simp [heq] at hab)
  exact ((List.perm_ext_iff_of_nodup hn hn').mpr hmem).eq_of_pairwise
    (fun a b _ _ h1 h2 => absurd h1 (by omega)) h.1 h'.1

/-- Writing the same octet twice is writing it once, in a canonical buffer. -/
theorem Memory.write_write_same {m : Memory} (h : m.wf) (i : Nat) (b : Octet) :
    (m.write i b).write i b = m.write i b :=
  Memory.eq_of_read (Memory.wf_write i b (Memory.wf_write i b h)) (Memory.wf_write i b h)
    (fun a => by simp only [Memory.read_write]; split <;> rfl)

/-- Writing the same sequence twice is writing it once, in a canonical buffer. -/
theorem Memory.writeRange_writeRange {m : Memory} (h : m.wf) (i : Nat) (s : List Octet) :
    (m.writeRange i s).writeRange i s = m.writeRange i s :=
  Memory.eq_of_read (Memory.wf_writeRange i s (Memory.wf_writeRange i s h)) (Memory.wf_writeRange i s h)
    (fun a => by simp only [Memory.read_writeRange]; split <;> rfl)

end Sys2Proof.Machine
end

