-- ==== Sys2Proof/Laws/State.lean ====
section
/-!
SUPPORT. One lemma per field of State per update: what the update leaves in the field.
-/

namespace Sys2Proof.Machine

section
variable (e : Err) (s : State)

@[simp] theorem State.setErr_err : (s.setErr e).err = errCode e := rfl
@[simp] theorem State.setErr_dstlen : (s.setErr e).dstlen = s.dstlen := rfl
@[simp] theorem State.setErr_dstid : (s.setErr e).dstid = s.dstid := rfl
@[simp] theorem State.setErr_srclen : (s.setErr e).srclen = s.srclen := rfl
@[simp] theorem State.setErr_srcid : (s.setErr e).srcid = s.srcid := rfl
@[simp] theorem State.setErr_nr : (s.setErr e).nr = s.nr := rfl
@[simp] theorem State.setErr_ns : (s.setErr e).ns = s.ns := rfl
@[simp] theorem State.setErr_pf : (s.setErr e).pf = s.pf := rfl
@[simp] theorem State.setErr_pid : (s.setErr e).pid = s.pid := rfl
@[simp] theorem State.setErr_paylen : (s.setErr e).paylen = s.paylen := rfl
@[simp] theorem State.setErr_payload : (s.setErr e).payload = s.payload := rfl
@[simp] theorem State.setErr_addr : (s.setErr e).addr = s.addr := rfl
@[simp] theorem State.setErr_ctrl : (s.setErr e).ctrl = s.ctrl := rfl
@[simp] theorem State.setErr_fcsr : (s.setErr e).fcsr = s.fcsr := rfl
@[simp] theorem State.setErr_frmlen : (s.setErr e).frmlen = s.frmlen := rfl
@[simp] theorem State.setErr_frame : (s.setErr e).frame = s.frame := rfl
@[simp] theorem State.setErr_plen : (s.setErr e).plen = s.plen := rfl
@[simp] theorem State.setErr_pcall : (s.setErr e).pcall = s.pcall := rfl
@[simp] theorem State.setErr_pssid : (s.setErr e).pssid = s.pssid := rfl
@[simp] theorem State.setErr_pending : (s.setErr e).pending = s.pending := rfl
@[simp] theorem State.setErr_returned : (s.setErr e).returned = s.returned := rfl

end

section
variable (k : Nat) (p : List Octet) (n : Nat) (s : State)

@[simp] theorem State.setStation_err : (s.setStation k p n).err = s.err := rfl
@[simp] theorem State.setStation_dstlen : (s.setStation k p n).dstlen = s.dstlen := rfl
@[simp] theorem State.setStation_dstid : (s.setStation k p n).dstid = s.dstid := rfl
@[simp] theorem State.setStation_srclen : (s.setStation k p n).srclen = s.srclen := rfl
@[simp] theorem State.setStation_srcid : (s.setStation k p n).srcid = s.srcid := rfl
@[simp] theorem State.setStation_nr : (s.setStation k p n).nr = s.nr := rfl
@[simp] theorem State.setStation_ns : (s.setStation k p n).ns = s.ns := rfl
@[simp] theorem State.setStation_pf : (s.setStation k p n).pf = s.pf := rfl
@[simp] theorem State.setStation_pid : (s.setStation k p n).pid = s.pid := rfl
@[simp] theorem State.setStation_paylen : (s.setStation k p n).paylen = s.paylen := rfl
@[simp] theorem State.setStation_payload : (s.setStation k p n).payload = s.payload := rfl
@[simp] theorem State.setStation_addr : (s.setStation k p n).addr = s.addr := rfl
@[simp] theorem State.setStation_ctrl : (s.setStation k p n).ctrl = s.ctrl := rfl
@[simp] theorem State.setStation_fcsr : (s.setStation k p n).fcsr = s.fcsr := rfl
@[simp] theorem State.setStation_frmlen : (s.setStation k p n).frmlen = s.frmlen := rfl
@[simp] theorem State.setStation_frame : (s.setStation k p n).frame = s.frame := rfl
@[simp] theorem State.setStation_plen : (s.setStation k p n).plen = BitVec.ofNat 3 k := rfl
@[simp] theorem State.setStation_pcall : (s.setStation k p n).pcall = s.pcall.writeRange 0 p := rfl
@[simp] theorem State.setStation_pssid : (s.setStation k p n).pssid = BitVec.ofNat 4 n := rfl
@[simp] theorem State.setStation_pending : (s.setStation k p n).pending = s.pending := rfl
@[simp] theorem State.setStation_returned : (s.setStation k p n).returned = s.returned := rfl

end

section
variable (a : List Octet) (s : State)

@[simp] theorem State.setAddr_err : (s.setAddr a).err = s.err := rfl
@[simp] theorem State.setAddr_dstlen : (s.setAddr a).dstlen = s.dstlen := rfl
@[simp] theorem State.setAddr_dstid : (s.setAddr a).dstid = s.dstid := rfl
@[simp] theorem State.setAddr_srclen : (s.setAddr a).srclen = s.srclen := rfl
@[simp] theorem State.setAddr_srcid : (s.setAddr a).srcid = s.srcid := rfl
@[simp] theorem State.setAddr_nr : (s.setAddr a).nr = s.nr := rfl
@[simp] theorem State.setAddr_ns : (s.setAddr a).ns = s.ns := rfl
@[simp] theorem State.setAddr_pf : (s.setAddr a).pf = s.pf := rfl
@[simp] theorem State.setAddr_pid : (s.setAddr a).pid = s.pid := rfl
@[simp] theorem State.setAddr_paylen : (s.setAddr a).paylen = s.paylen := rfl
@[simp] theorem State.setAddr_payload : (s.setAddr a).payload = s.payload := rfl
@[simp] theorem State.setAddr_addr : (s.setAddr a).addr = s.addr.writeRange 0 a := rfl
@[simp] theorem State.setAddr_ctrl : (s.setAddr a).ctrl = s.ctrl := rfl
@[simp] theorem State.setAddr_fcsr : (s.setAddr a).fcsr = s.fcsr := rfl
@[simp] theorem State.setAddr_frmlen : (s.setAddr a).frmlen = s.frmlen := rfl
@[simp] theorem State.setAddr_frame : (s.setAddr a).frame = s.frame := rfl
@[simp] theorem State.setAddr_plen : (s.setAddr a).plen = s.plen := rfl
@[simp] theorem State.setAddr_pcall : (s.setAddr a).pcall = s.pcall := rfl
@[simp] theorem State.setAddr_pssid : (s.setAddr a).pssid = s.pssid := rfl
@[simp] theorem State.setAddr_pending : (s.setAddr a).pending = s.pending := rfl
@[simp] theorem State.setAddr_returned : (s.setAddr a).returned = s.returned := rfl

end

section
variable (c : Octet) (s : State)

@[simp] theorem State.setCtrl_err : (s.setCtrl c).err = s.err := rfl
@[simp] theorem State.setCtrl_dstlen : (s.setCtrl c).dstlen = s.dstlen := rfl
@[simp] theorem State.setCtrl_dstid : (s.setCtrl c).dstid = s.dstid := rfl
@[simp] theorem State.setCtrl_srclen : (s.setCtrl c).srclen = s.srclen := rfl
@[simp] theorem State.setCtrl_srcid : (s.setCtrl c).srcid = s.srcid := rfl
@[simp] theorem State.setCtrl_nr : (s.setCtrl c).nr = s.nr := rfl
@[simp] theorem State.setCtrl_ns : (s.setCtrl c).ns = s.ns := rfl
@[simp] theorem State.setCtrl_pf : (s.setCtrl c).pf = s.pf := rfl
@[simp] theorem State.setCtrl_pid : (s.setCtrl c).pid = s.pid := rfl
@[simp] theorem State.setCtrl_paylen : (s.setCtrl c).paylen = s.paylen := rfl
@[simp] theorem State.setCtrl_payload : (s.setCtrl c).payload = s.payload := rfl
@[simp] theorem State.setCtrl_addr : (s.setCtrl c).addr = s.addr := rfl
@[simp] theorem State.setCtrl_ctrl : (s.setCtrl c).ctrl = c := rfl
@[simp] theorem State.setCtrl_fcsr : (s.setCtrl c).fcsr = s.fcsr := rfl
@[simp] theorem State.setCtrl_frmlen : (s.setCtrl c).frmlen = s.frmlen := rfl
@[simp] theorem State.setCtrl_frame : (s.setCtrl c).frame = s.frame := rfl
@[simp] theorem State.setCtrl_plen : (s.setCtrl c).plen = s.plen := rfl
@[simp] theorem State.setCtrl_pcall : (s.setCtrl c).pcall = s.pcall := rfl
@[simp] theorem State.setCtrl_pssid : (s.setCtrl c).pssid = s.pssid := rfl
@[simp] theorem State.setCtrl_pending : (s.setCtrl c).pending = s.pending := rfl
@[simp] theorem State.setCtrl_returned : (s.setCtrl c).returned = s.returned := rfl

end

section
variable (c : Word16) (s : State)

@[simp] theorem State.setFcsr_err : (s.setFcsr c).err = s.err := rfl
@[simp] theorem State.setFcsr_dstlen : (s.setFcsr c).dstlen = s.dstlen := rfl
@[simp] theorem State.setFcsr_dstid : (s.setFcsr c).dstid = s.dstid := rfl
@[simp] theorem State.setFcsr_srclen : (s.setFcsr c).srclen = s.srclen := rfl
@[simp] theorem State.setFcsr_srcid : (s.setFcsr c).srcid = s.srcid := rfl
@[simp] theorem State.setFcsr_nr : (s.setFcsr c).nr = s.nr := rfl
@[simp] theorem State.setFcsr_ns : (s.setFcsr c).ns = s.ns := rfl
@[simp] theorem State.setFcsr_pf : (s.setFcsr c).pf = s.pf := rfl
@[simp] theorem State.setFcsr_pid : (s.setFcsr c).pid = s.pid := rfl
@[simp] theorem State.setFcsr_paylen : (s.setFcsr c).paylen = s.paylen := rfl
@[simp] theorem State.setFcsr_payload : (s.setFcsr c).payload = s.payload := rfl
@[simp] theorem State.setFcsr_addr : (s.setFcsr c).addr = s.addr := rfl
@[simp] theorem State.setFcsr_ctrl : (s.setFcsr c).ctrl = s.ctrl := rfl
@[simp] theorem State.setFcsr_fcsr : (s.setFcsr c).fcsr = c := rfl
@[simp] theorem State.setFcsr_frmlen : (s.setFcsr c).frmlen = s.frmlen := rfl
@[simp] theorem State.setFcsr_frame : (s.setFcsr c).frame = s.frame := rfl
@[simp] theorem State.setFcsr_plen : (s.setFcsr c).plen = s.plen := rfl
@[simp] theorem State.setFcsr_pcall : (s.setFcsr c).pcall = s.pcall := rfl
@[simp] theorem State.setFcsr_pssid : (s.setFcsr c).pssid = s.pssid := rfl
@[simp] theorem State.setFcsr_pending : (s.setFcsr c).pending = s.pending := rfl
@[simp] theorem State.setFcsr_returned : (s.setFcsr c).returned = s.returned := rfl

end

section
variable (f : List Octet) (s : State)

@[simp] theorem State.setFrame_err : (s.setFrame f).err = s.err := rfl
@[simp] theorem State.setFrame_dstlen : (s.setFrame f).dstlen = s.dstlen := rfl
@[simp] theorem State.setFrame_dstid : (s.setFrame f).dstid = s.dstid := rfl
@[simp] theorem State.setFrame_srclen : (s.setFrame f).srclen = s.srclen := rfl
@[simp] theorem State.setFrame_srcid : (s.setFrame f).srcid = s.srcid := rfl
@[simp] theorem State.setFrame_nr : (s.setFrame f).nr = s.nr := rfl
@[simp] theorem State.setFrame_ns : (s.setFrame f).ns = s.ns := rfl
@[simp] theorem State.setFrame_pf : (s.setFrame f).pf = s.pf := rfl
@[simp] theorem State.setFrame_pid : (s.setFrame f).pid = s.pid := rfl
@[simp] theorem State.setFrame_paylen : (s.setFrame f).paylen = s.paylen := rfl
@[simp] theorem State.setFrame_payload : (s.setFrame f).payload = s.payload := rfl
@[simp] theorem State.setFrame_addr : (s.setFrame f).addr = s.addr := rfl
@[simp] theorem State.setFrame_ctrl : (s.setFrame f).ctrl = s.ctrl := rfl
@[simp] theorem State.setFrame_fcsr : (s.setFrame f).fcsr = s.fcsr := rfl
@[simp] theorem State.setFrame_frmlen : (s.setFrame f).frmlen = BitVec.ofNat Config.frmlenW f.length := rfl
@[simp] theorem State.setFrame_frame : (s.setFrame f).frame = s.frame.writeRange 0 f := rfl
@[simp] theorem State.setFrame_plen : (s.setFrame f).plen = s.plen := rfl
@[simp] theorem State.setFrame_pcall : (s.setFrame f).pcall = s.pcall := rfl
@[simp] theorem State.setFrame_pssid : (s.setFrame f).pssid = s.pssid := rfl
@[simp] theorem State.setFrame_pending : (s.setFrame f).pending = s.pending := rfl
@[simp] theorem State.setFrame_returned : (s.setFrame f).returned = s.returned := rfl

end

section
variable (s : State)

@[simp] theorem State.clearFrame_err : s.clearFrame.err = s.err := rfl
@[simp] theorem State.clearFrame_dstlen : s.clearFrame.dstlen = s.dstlen := rfl
@[simp] theorem State.clearFrame_dstid : s.clearFrame.dstid = s.dstid := rfl
@[simp] theorem State.clearFrame_srclen : s.clearFrame.srclen = s.srclen := rfl
@[simp] theorem State.clearFrame_srcid : s.clearFrame.srcid = s.srcid := rfl
@[simp] theorem State.clearFrame_nr : s.clearFrame.nr = s.nr := rfl
@[simp] theorem State.clearFrame_ns : s.clearFrame.ns = s.ns := rfl
@[simp] theorem State.clearFrame_pf : s.clearFrame.pf = s.pf := rfl
@[simp] theorem State.clearFrame_pid : s.clearFrame.pid = s.pid := rfl
@[simp] theorem State.clearFrame_paylen : s.clearFrame.paylen = s.paylen := rfl
@[simp] theorem State.clearFrame_payload : s.clearFrame.payload = s.payload := rfl
@[simp] theorem State.clearFrame_addr : s.clearFrame.addr = s.addr := rfl
@[simp] theorem State.clearFrame_ctrl : s.clearFrame.ctrl = s.ctrl := rfl
@[simp] theorem State.clearFrame_fcsr : s.clearFrame.fcsr = s.fcsr := rfl
@[simp] theorem State.clearFrame_frmlen : s.clearFrame.frmlen = BitVec.ofNat Config.frmlenW 0 := rfl
@[simp] theorem State.clearFrame_frame : s.clearFrame.frame = s.frame := rfl
@[simp] theorem State.clearFrame_plen : s.clearFrame.plen = s.plen := rfl
@[simp] theorem State.clearFrame_pcall : s.clearFrame.pcall = s.pcall := rfl
@[simp] theorem State.clearFrame_pssid : s.clearFrame.pssid = s.pssid := rfl
@[simp] theorem State.clearFrame_pending : s.clearFrame.pending = s.pending := rfl
@[simp] theorem State.clearFrame_returned : s.clearFrame.returned = s.returned := rfl

end

section
variable (v : Nat) (s : State)

@[simp] theorem State.answer_err : (s.answer v).err = s.err := rfl
@[simp] theorem State.answer_dstlen : (s.answer v).dstlen = s.dstlen := rfl
@[simp] theorem State.answer_dstid : (s.answer v).dstid = s.dstid := rfl
@[simp] theorem State.answer_srclen : (s.answer v).srclen = s.srclen := rfl
@[simp] theorem State.answer_srcid : (s.answer v).srcid = s.srcid := rfl
@[simp] theorem State.answer_nr : (s.answer v).nr = s.nr := rfl
@[simp] theorem State.answer_ns : (s.answer v).ns = s.ns := rfl
@[simp] theorem State.answer_pf : (s.answer v).pf = s.pf := rfl
@[simp] theorem State.answer_pid : (s.answer v).pid = s.pid := rfl
@[simp] theorem State.answer_paylen : (s.answer v).paylen = s.paylen := rfl
@[simp] theorem State.answer_payload : (s.answer v).payload = s.payload := rfl
@[simp] theorem State.answer_addr : (s.answer v).addr = s.addr := rfl
@[simp] theorem State.answer_ctrl : (s.answer v).ctrl = s.ctrl := rfl
@[simp] theorem State.answer_fcsr : (s.answer v).fcsr = s.fcsr := rfl
@[simp] theorem State.answer_frmlen : (s.answer v).frmlen = s.frmlen := rfl
@[simp] theorem State.answer_frame : (s.answer v).frame = s.frame := rfl
@[simp] theorem State.answer_plen : (s.answer v).plen = s.plen := rfl
@[simp] theorem State.answer_pcall : (s.answer v).pcall = s.pcall := rfl
@[simp] theorem State.answer_pssid : (s.answer v).pssid = s.pssid := rfl
@[simp] theorem State.answer_pending : (s.answer v).pending = s.pending := rfl
@[simp] theorem State.answer_returned : (s.answer v).returned = v :: s.returned := rfl

end

end Sys2Proof.Machine
end

