-- ==== Sys2Proof/Laws/Functions.lean ====
section
/-!
SUPPORT. What the pure functions of the block guarantee of their results: a parsed StationId, the lengths of an address
field and of a frame, the CRC's independence of how the octets are grouped.
-/

namespace Sys2Proof.Machine

theorem parseSuffix_le {s : List Octet} {n : Nat} (h : parseSuffix s = some n) : n ≤ 15 := by
  unfold parseSuffix at h
  split at h
  · split at h
    · rename_i d hd
      simp only [isDigit, Bool.and_eq_true, decide_eq_true_eq, BitVec.le_def, BitVec.toNat_ofNat] at hd
      simp only [Option.some.injEq] at h
      omega
    · simp at h
  · split at h
    · rename_i t d hd
      simp only [BitVec.le_def, BitVec.toNat_ofNat] at hd
      simp only [Option.some.injEq] at h
      omega
    · simp at h
  · simp at h

/-- A parsed StationId: 2 to 6 callsign characters and an SSID up to 15 (00_scope.md R18). -/
theorem parse_some {s : List Octet} {id : StationId} (h : parse s = some id) :
    2 ≤ id.call.length ∧ id.call.length ≤ 6 ∧ (∀ c ∈ id.call, isCallCh c = true) ∧ id.ssid ≤ 15 := by
  unfold parse parseParts at h
  split at h
  · simp at h
  · rename_i hlen
    split at h
    · rename_i hall
      have hc := List.all_eq_true.mp hall
      split at h
      · simp only [Option.some.injEq] at h
        subst h
        exact ⟨by simp only; omega, by simp only; omega, hc, by simp⟩
      · simp only [Option.map_eq_some_iff] at h
        obtain ⟨n, hn, rfl⟩ := h
        exact ⟨by simp only; omega, by simp only; omega, hc, parseSuffix_le hn⟩
    · simp at h

theorem length_pad6 {call : List Octet} (h : call.length ≤ 6) : (pad6 call).length = 6 := by
  simp only [pad6, List.length_append, List.length_replicate]; omega

theorem isCallCh_iff (c : Octet) : isCallCh c = true ↔ IsCallChar c := by
  simp only [isCallCh, isDigit, isUpper, IsCallChar, Bool.or_eq_true, Bool.and_eq_true, decide_eq_true_eq,
    BitVec.le_def, BitVec.toNat_ofNat]
  omega

theorem length_addressOctets {d s : StationId} (hd : d.call.length ≤ 6) (hs : s.call.length ≤ 6) :
    (addressOctets d s).length = 14 := by
  simp [addressOctets, length_pad6 hd, length_pad6 hs]

theorem length_packAddress (d s : StationId) (C M : Bool) :
    (packAddress d s C M).length = (addressOctets d s).length := by
  cases C <;> cases M <;> simp [packAddress, setExtension, setCommandBits, setReserved, shiftOctets]

/-- An encoded address field has fourteen octets (00_scope.md R9), and comes from two parsed identifiers. -/
theorem encodeAddr_some {dst src a : List Octet} {C M : Bool} (h : encodeAddr dst src C M = some a) :
    a.length = 14 ∧ ∃ d s, parse dst = some d ∧ parse src = some s ∧ a = packAddress d s C M := by
  unfold encodeAddr at h
  split at h
  · rename_i d s hd hs
    simp only [Option.some.injEq] at h
    refine ⟨?_, d, s, hd, hs, h.symm⟩
    rw [← h, length_packAddress, length_addressOctets (parse_some hd).2.1 (parse_some hs).2.1]
  · simp at h

/-- An address field fails to encode exactly when an identifier fails to parse (41_address_encoder.md R136). -/
theorem encodeAddr_eq_none {dst src : List Octet} {C M : Bool} :
    encodeAddr dst src C M = none ↔ parse dst = none ∨ parse src = none := by
  unfold encodeAddr
  cases parse dst <;> cases parse src <;> simp

@[simp] theorem length_highFirst (c : Word16) : (highFirst c).length = 2 := rfl

@[simp] theorem length_fcsOctets (s : List Octet) : (fcsOctets s).length = 2 := rfl

theorem length_leadingFlag (L : Bool) : (leadingFlag L).length = L.toNat := by cases L <;> rfl

/-- `|frame| = 19 + |pay| + L` for a body of 16 + |pay| octets (44_frame_assembler.md R189). -/
theorem length_frameAround (L : Bool) (body : List Octet) : (frameAround L body).length = L.toNat + body.length + 3 := by
  simp [frameAround, length_leadingFlag]; omega

@[simp] theorem length_addressField (s : State) : (addressField s).length = 14 := by simp [addressField]

theorem length_payloadOctets (s : State) : (payloadOctets s).length = s.paylen.toNat := by simp [payloadOctets]

theorem length_payloadOctets_le (s : State) : (payloadOctets s).length ≤ Config.payMax := by
  have := s.paylen.isLt
  simp only [length_payloadOctets, Config.payMax, Config.payMaxOf]
  omega

theorem length_bodyOf (addr : List Octet) (ctrl pid : Octet) (pay : List Octet) :
    (bodyOf addr ctrl pid pay).length = addr.length + 2 + pay.length := by
  simp [bodyOf]; omega

theorem frameBody_eq (s : State) : frameBody s = bodyOf (addressField s) s.ctrl s.pid (payloadOctets s) := rfl

/-- Every frame the block can assemble fits its buffer, and its length fits FRMLEN (00_scope.md R8). -/
theorem length_asmFrame_le {addr pay : List Octet} (ctrl pid : Octet) (L : Bool) (ha : addr.length = 14)
    (hp : pay.length ≤ Config.payMax) :
    (asmFrame addr ctrl pid pay L).1.length ≤ Config.frmMax := by
  have : L.toNat ≤ 1 := Bool.toNat_le L
  simp only [asmFrame, length_frameAround, length_bodyOf, Config.frmMax, Config.frmMaxOf]
  simp only [Config.payMax] at hp
  omega

theorem toNat_frmlen {n : Nat} (h : n ≤ Config.frmMax) : (BitVec.ofNat Config.frmlenW n).toNat = n := by
  rw [BitVec.toNat_ofNat]
  have hw : 2 ^ Config.frmlenW = 1024 := rfl
  have hm : Config.frmMax = 531 := rfl
  exact Nat.mod_eq_of_lt (by omega)

theorem crc16X25_append (s t : List Octet) :
    crc16X25 (s ++ t) = t.foldl crcOctet (crc16X25 s ^^^ 0xFFFF#16) ^^^ 0xFFFF#16 := by
  simp [crc16X25, List.foldl_append]

end Sys2Proof.Machine
end

