-- ==== Sys2Proof/Laws/Commands.lean ====
section
/-!
SUPPORT. What a command, a host action and a step can do, each said once: later proofs cite these and unfold nothing.
-/

namespace Sys2Proof.Machine

@[simp] theorem complete_eq (s : State) : complete s = .next (s.setErr .ok) := rfl

@[simp] theorem raise_eq (e : Err) (s : State) : raise e s = .next (s.setErr e) := rfl

@[simp] theorem errCode_ok : errCode .ok = 0#2 := rfl

@[simp] theorem errCode_invalidAddress : errCode .invalidAddress = 1#2 := rfl

@[simp] theorem errCode_illegalCommand : errCode .illegalCommand = 2#2 := rfl

/-- PARSE of an identifier that parses (40_callsign_parser.md R116). -/
theorem execParse_some {S : Bool} {s : State} {id : StationId} (h : parse (identifier S s) = some id) :
    execParse S s = .next ((s.setStation id.call.length (pad6 id.call) id.ssid).setErr .ok) := by
  simp [execParse, h]

/-- PARSE of an identifier that does not (R117). -/
theorem execParse_none {S : Bool} {s : State} (h : parse (identifier S s) = none) :
    execParse S s = .next (s.setErr .invalidAddress) := by
  simp [execParse, h]

/-- ENCADDR of two identifiers that parse (41_address_encoder.md R134). -/
theorem execEncaddr_some {M C : Bool} {s : State} {a : List Octet}
    (h : encodeAddr (destination s) (source s) C M = some a) :
    execEncaddr M C s = .next ((s.setAddr a).setErr .ok) := by
  simp [execEncaddr, h]

/-- ENCADDR when an identifier does not (R135). -/
theorem execEncaddr_none {M C : Bool} {s : State} (h : encodeAddr (destination s) (source s) C M = none) :
    execEncaddr M C s = .next (s.setErr .invalidAddress) := by
  simp [execEncaddr, h]

/-- MKFRM of two identifiers that parse (44_frame_assembler.md R194). -/
theorem execMkfrm_some {L X M C : Bool} {s : State} {a : List Octet}
    (h : encodeAddr (destination s) (source s) C M = some a) :
    execMkfrm L X M C s = .next ((makeFrame L X a s).setErr .ok) := by
  simp [execMkfrm, h]

/-- MKFRM when an identifier does not (R196). -/
theorem execMkfrm_none {L X M C : Bool} {s : State} (h : encodeAddr (destination s) (source s) C M = none) :
    execMkfrm L X M C s = .next (s.clearFrame.setErr .invalidAddress) := by
  simp [execMkfrm, h]

section
variable (r : List Octet × Word16) (L X : Bool) (a : List Octet) (s : State)

@[simp] theorem State.storeFrame_err : (s.storeFrame r).err = s.err := rfl
@[simp] theorem State.storeFrame_dstlen : (s.storeFrame r).dstlen = s.dstlen := rfl
@[simp] theorem State.storeFrame_dstid : (s.storeFrame r).dstid = s.dstid := rfl
@[simp] theorem State.storeFrame_srclen : (s.storeFrame r).srclen = s.srclen := rfl
@[simp] theorem State.storeFrame_srcid : (s.storeFrame r).srcid = s.srcid := rfl
@[simp] theorem State.storeFrame_nr : (s.storeFrame r).nr = s.nr := rfl
@[simp] theorem State.storeFrame_ns : (s.storeFrame r).ns = s.ns := rfl
@[simp] theorem State.storeFrame_pf : (s.storeFrame r).pf = s.pf := rfl
@[simp] theorem State.storeFrame_pid : (s.storeFrame r).pid = s.pid := rfl
@[simp] theorem State.storeFrame_paylen : (s.storeFrame r).paylen = s.paylen := rfl
@[simp] theorem State.storeFrame_payload : (s.storeFrame r).payload = s.payload := rfl
@[simp] theorem State.storeFrame_addr : (s.storeFrame r).addr = s.addr := rfl
@[simp] theorem State.storeFrame_ctrl : (s.storeFrame r).ctrl = s.ctrl := rfl
@[simp] theorem State.storeFrame_fcsr : (s.storeFrame r).fcsr = r.2 := rfl
@[simp] theorem State.storeFrame_frmlen :
    (s.storeFrame r).frmlen = BitVec.ofNat Config.frmlenW r.1.length := rfl
@[simp] theorem State.storeFrame_frame : (s.storeFrame r).frame = s.frame.writeRange 0 r.1 := rfl
@[simp] theorem State.storeFrame_plen : (s.storeFrame r).plen = s.plen := rfl
@[simp] theorem State.storeFrame_pcall : (s.storeFrame r).pcall = s.pcall := rfl
@[simp] theorem State.storeFrame_pssid : (s.storeFrame r).pssid = s.pssid := rfl
@[simp] theorem State.storeFrame_pending : (s.storeFrame r).pending = s.pending := rfl
@[simp] theorem State.storeFrame_returned : (s.storeFrame r).returned = s.returned := rfl

/-- The registers a successful MKFRM writes, in one record (R194). -/
theorem makeFrame_eq : makeFrame L X a s =
    { s with
      addr := s.addr.writeRange 0 a
      ctrl := controlOctet X s
      frame := s.frame.writeRange 0 (asmFrame a (controlOctet X s) s.pid (payloadOctets s) L).1
      frmlen := BitVec.ofNat Config.frmlenW (asmFrame a (controlOctet X s) s.pid (payloadOctets s) L).1.length
      fcsr := (asmFrame a (controlOctet X s) s.pid (payloadOctets s) L).2 } := rfl

end

/-- What a command can do (10_state.md R44): one of these nine effects. -/
theorem exec_cases {i : Instr} {s t : State} (h : exec i s = .next t) :
    (∃ S id, i = .parse S ∧ parse (identifier S s) = some id ∧
      t = (s.setStation id.call.length (pad6 id.call) id.ssid).setErr .ok) ∨
    (∃ S, i = .parse S ∧ parse (identifier S s) = none ∧ t = s.setErr .invalidAddress) ∨
    (∃ M C a, i = .encaddr M C ∧ encodeAddr (destination s) (source s) C M = some a ∧
      t = (s.setAddr a).setErr .ok) ∨
    (∃ M C, i = .encaddr M C ∧ encodeAddr (destination s) (source s) C M = none ∧ t = s.setErr .invalidAddress) ∨
    (∃ X, i = (if X then .bldctlc else .bldctl) ∧ t = (s.setCtrl (controlOctet X s)).setErr .ok) ∨
    (∃ S, i = .fcs S ∧ t = (s.setFcsr (crc16X25 (fcsBody S s))).setErr .ok) ∨
    (∃ L, i = .asmfrm L ∧
      t = (s.storeFrame (asmFrame (addressField s) s.ctrl s.pid (payloadOctets s) L)).setErr .ok) ∨
    (∃ L X M C a, i = .mkfrm L X M C ∧ encodeAddr (destination s) (source s) C M = some a ∧
      t = (makeFrame L X a s).setErr .ok) ∨
    (∃ L X M C, i = .mkfrm L X M C ∧ encodeAddr (destination s) (source s) C M = none ∧
      t = s.clearFrame.setErr .invalidAddress) := by
  cases i with
  | parse S =>
    cases hp : parse (identifier S s) with
    | some id =>
      simp only [exec, execParse_some hp, Host.Outcome.next.injEq] at h
      exact .inl ⟨S, id, rfl, hp, h.symm⟩
    | none =>
      simp only [exec, execParse_none hp, Host.Outcome.next.injEq] at h
      exact .inr (.inl ⟨S, rfl, hp, h.symm⟩)
  | encaddr M C =>
    cases hp : encodeAddr (destination s) (source s) C M with
    | some a =>
      simp only [exec, execEncaddr_some hp, Host.Outcome.next.injEq] at h
      exact .inr (.inr (.inl ⟨M, C, a, rfl, hp, h.symm⟩))
    | none =>
      simp only [exec, execEncaddr_none hp, Host.Outcome.next.injEq] at h
      exact .inr (.inr (.inr (.inl ⟨M, C, rfl, hp, h.symm⟩)))
  | bldctl =>
    simp only [exec, execBldctl, complete_eq, Host.Outcome.next.injEq] at h
    exact .inr (.inr (.inr (.inr (.inl ⟨false, rfl, h.symm⟩))))
  | bldctlc =>
    simp only [exec, execBldctlc, complete_eq, Host.Outcome.next.injEq] at h
    exact .inr (.inr (.inr (.inr (.inl ⟨true, rfl, h.symm⟩))))
  | fcs S =>
    simp only [exec, execFcs, complete_eq, Host.Outcome.next.injEq] at h
    exact .inr (.inr (.inr (.inr (.inr (.inl ⟨S, rfl, h.symm⟩)))))
  | asmfrm L =>
    simp only [exec, execAsmfrm, complete_eq, Host.Outcome.next.injEq] at h
    exact .inr (.inr (.inr (.inr (.inr (.inr (.inl ⟨L, rfl, h.symm⟩))))))
  | mkfrm L X M C =>
    cases hp : encodeAddr (destination s) (source s) C M with
    | some a =>
      simp only [exec, execMkfrm_some hp, Host.Outcome.next.injEq] at h
      exact .inr (.inr (.inr (.inr (.inr (.inr (.inr (.inl ⟨L, X, M, C, a, rfl, hp, h.symm⟩)))))))
    | none =>
      simp only [exec, execMkfrm_none hp, Host.Outcome.next.injEq] at h
      exact .inr (.inr (.inr (.inr (.inr (.inr (.inr (.inr ⟨L, X, M, C, rfl, hp, h.symm⟩)))))))

/-- What a write to the command port can do (30_encoding.md R82): a command, or IllegalCommand. -/
theorem runCommand_cases {word : Nat} {s t : State} (h : runCommand word s = .next t) :
    word < 2 ^ 8 ∧ ((∃ i, decode (BitVec.ofNat 8 word) = some i ∧ exec i s = .next t) ∨
      (decode (BitVec.ofNat 8 word) = none ∧ t = s.setErr .illegalCommand)) := by
  unfold runCommand at h
  split at h
  · rename_i hw
    refine ⟨hw, ?_⟩
    split at h
    · rename_i i hi; exact .inl ⟨i, hi, h⟩
    · rename_i hi
      simp only [raise_eq, Host.Outcome.next.injEq] at h
      exact .inr ⟨hi, h.symm⟩
  · simp at h

/-- What a host action can do: a command, IllegalCommand, a write of a scalar register within its width, a write of an
octet within its buffer, a read, or reset. -/
theorem perform_cases {a : HostAction} {s t : State} (h : perform a s = .next t) :
    (∃ i, exec i s = .next t) ∨ t = s.setErr .illegalCommand ∨
    (∃ r v w, regShape r = .scalar w ∧ v < 2 ^ w ∧ t = s.writeScalar r v) ∨
    (∃ r i v n, regShape r = .buffer n ∧ i < n ∧ v < 2 ^ 8 ∧ t = s.writeOctet r i v) ∨
    (∃ v, t = s.answer v) ∨ t = s.resetRegisters := by
  have cmd : ∀ w, runCommand w s = .next t → (∃ i, exec i s = .next t) ∨ t = s.setErr .illegalCommand := by
    intro w hw
    rcases (runCommand_cases hw).2 with ⟨i, _, hi⟩ | ⟨_, ht⟩
    · exact .inl ⟨i, hi⟩
    · exact .inr ht
  cases a with
  | wr reg value =>
    simp only [perform, performWr] at h
    split at h
    · simp at h
    · split at h
      · rcases cmd _ h with h | h
        · exact .inl h
        · exact .inr (.inl h)
      · rename_i r _ _ w hr
        split at h
        · simp only [Host.Outcome.next.injEq] at h
          exact .inr (.inr (.inl ⟨r, value, w, hr, ‹_›, h.symm⟩))
        · simp at h
      · simp at h
  | wrOctet reg index value =>
    simp only [perform, performWrOctet] at h
    split at h
    · simp at h
    · split at h
      · simp at h
      · simp at h
      · rename_i r _ _ n hr
        split at h
        · split at h
          · simp only [Host.Outcome.next.injEq] at h
            exact .inr (.inr (.inr (.inl ⟨r, index, value, n, hr, ‹_›, ‹_›, h.symm⟩)))
          · simp at h
        · simp at h
  | rd reg =>
    simp only [perform, performRd] at h
    split at h
    · simp at h
    · split at h
      · simp only [Host.Outcome.next.injEq] at h; exact .inr (.inr (.inr (.inr (.inl ⟨_, h.symm⟩))))
      · simp only [Host.Outcome.next.injEq] at h; exact .inr (.inr (.inr (.inr (.inl ⟨_, h.symm⟩))))
      · simp at h
  | rdOctet reg index =>
    simp only [perform, performRdOctet] at h
    split at h
    · simp at h
    · split at h
      · simp at h
      · simp at h
      · split at h
        · simp only [Host.Outcome.next.injEq] at h; exact .inr (.inr (.inr (.inr (.inl ⟨_, h.symm⟩))))
        · simp at h
  | cmd word =>
    rcases cmd _ h with h | h
    · exact .inl h
    · exact .inr (.inl h)
  | reset =>
    simp only [perform, Host.Outcome.next.injEq] at h
    exact .inr (.inr (.inr (.inr (.inr h.symm))))

/-- What a step can do (00_scope.md R10, R11): wait, or perform the first of the host's actions. -/
theorem step_cases {s t : State} (h : step s = .next t) :
    (s.pending = [] ∧ t = s) ∨
    (∃ a rest, s.pending = a :: rest ∧ perform a { s with pending := rest } = .next t) := by
  unfold step hostStep at h
  split at h
  · simp only [Host.Outcome.next.injEq] at h; exact .inl ⟨‹_›, h.symm⟩
  · exact .inr ⟨_, _, ‹_›, h⟩

/-- A property that a command, an error, a host access and reset keep, and that does not look at the host's stream, is
kept by every step. -/
theorem step_keeps {P : State → Prop}
    (stream : ∀ s rest, P s → P { s with pending := rest })
    (command : ∀ i s t, P s → exec i s = .next t → P t)
    (error : ∀ s, P s → P (s.setErr .illegalCommand))
    (scalar : ∀ r v w s, regShape r = .scalar w → v < 2 ^ w → P s → P (s.writeScalar r v))
    (octet : ∀ r i v n s, regShape r = .buffer n → i < n → v < 2 ^ 8 → P s → P (s.writeOctet r i v))
    (read : ∀ v s, P s → P (s.answer v))
    (reset : ∀ s, P s → P s.resetRegisters)
    {s t : State} (hs : P s) (h : step s = .next t) : P t := by
  rcases step_cases h with ⟨_, rfl⟩ | ⟨a, rest, _, hp⟩
  · exact hs
  · have hs' := stream s rest hs
    rcases perform_cases hp with ⟨i, hi⟩ | rfl | ⟨r, v, w, hr, hv, rfl⟩ | ⟨r, i, v, n, hr, hi, hv, rfl⟩ | ⟨v, rfl⟩ | rfl
    · exact command i _ _ hs' hi
    · exact error _ hs'
    · exact scalar r v w _ hr hv hs'
    · exact octet r i v n _ hr hi hv hs'
    · exact read v _ hs'
    · exact reset _ hs'

/-- A host write of a scalar register changes no buffer, no read-only register and not the host's stream. -/
theorem writeScalar_frame (r : Reg) (v : Nat) (s : State) :
    (s.writeScalar r v).err = s.err ∧ (s.writeScalar r v).dstid = s.dstid ∧ (s.writeScalar r v).srcid = s.srcid ∧
    (s.writeScalar r v).payload = s.payload ∧ (s.writeScalar r v).addr = s.addr ∧
    (s.writeScalar r v).fcsr = s.fcsr ∧ (s.writeScalar r v).frmlen = s.frmlen ∧
    (s.writeScalar r v).frame = s.frame ∧ (s.writeScalar r v).plen = s.plen ∧ (s.writeScalar r v).pcall = s.pcall ∧
    (s.writeScalar r v).pssid = s.pssid ∧ (s.writeScalar r v).pending = s.pending ∧
    (s.writeScalar r v).returned = s.returned := by
  cases r <;> simp [State.writeScalar]

/-- A host write of an octet changes no scalar register, not FRAME, not PCALL and not the host's stream. -/
theorem writeOctet_frame (r : Reg) (i v : Nat) (s : State) :
    (s.writeOctet r i v).err = s.err ∧ (s.writeOctet r i v).dstlen = s.dstlen ∧
    (s.writeOctet r i v).srclen = s.srclen ∧ (s.writeOctet r i v).nr = s.nr ∧ (s.writeOctet r i v).ns = s.ns ∧
    (s.writeOctet r i v).pf = s.pf ∧ (s.writeOctet r i v).pid = s.pid ∧ (s.writeOctet r i v).paylen = s.paylen ∧
    (s.writeOctet r i v).ctrl = s.ctrl ∧ (s.writeOctet r i v).fcsr = s.fcsr ∧
    (s.writeOctet r i v).frmlen = s.frmlen ∧ (s.writeOctet r i v).frame = s.frame ∧
    (s.writeOctet r i v).plen = s.plen ∧ (s.writeOctet r i v).pcall = s.pcall ∧
    (s.writeOctet r i v).pssid = s.pssid ∧ (s.writeOctet r i v).pending = s.pending ∧
    (s.writeOctet r i v).returned = s.returned := by
  cases r <;> simp [State.writeOctet]

/-- A register's number names it (10_state.md R20). -/
theorem regOfNumber_regNumber (r : Reg) : regOfNumber (regNumber r) = some r := by cases r <;> rfl

end Sys2Proof.Machine
end

