-- ==== Sys2Proof/Laws/PerInstr.lean ====
section
/-!
SUPPORT. Statements made of every command, one lemma per constructor. `EncodedWord`: the word of a command belongs to
that command's row of the opcode map (30_encoding.md R84) and to no other.
-/

namespace Sys2Proof.Laws

/-- The rows of the opcode map that hold the command's word are one row, and it reads the command back. -/
def EncodedWord.Statement (i : Instr) : Prop :=
  (opcodeMap.filter (fun row => row.holds (encode i))).map (fun row => row.instr (encode i)) = [i]

theorem EncodedWord.parse (S : Bool) : EncodedWord.Statement (.parse S) := by
  cases S <;> rfl

theorem EncodedWord.encaddr (M C : Bool) : EncodedWord.Statement (.encaddr M C) := by
  cases M <;> cases C <;> rfl

theorem EncodedWord.bldctl : EncodedWord.Statement .bldctl := rfl

theorem EncodedWord.bldctlc : EncodedWord.Statement .bldctlc := rfl

theorem EncodedWord.fcs (S : Bool) : EncodedWord.Statement (.fcs S) := by
  cases S <;> rfl

theorem EncodedWord.asmfrm (L : Bool) : EncodedWord.Statement (.asmfrm L) := by
  cases L <;> rfl

theorem EncodedWord.mkfrm (L X M C : Bool) : EncodedWord.Statement (.mkfrm L X M C) := by
  cases L <;> cases X <;> cases M <;> cases C <;> rfl

end Sys2Proof.Laws
end

