-- ==== Sys2Proof/Tests/Slice0.lean ====
section
/-!
SUPPORT. The model's own tests. Expected values are the spec's: 30_encoding.md R84, R85, R94 and 95_test_vectors.md
(sections 2.1 to 2.7) for the tests, and for each claim with hypotheses a witness that meets them.
-/

namespace Sys2Proof.Tests

open Sys2Proof Sys2Proof.Machine

/-- A field of the state after, where there is one. -/
def after {α : Type} (r : Result) (f : State → α) : Option α :=
  match r with
  | .next t => some (f t)
  | .fault _ => none
  | .refused _ => none

/-- The reset state with two identifiers written by the host. -/
def ready (dst src : List Char) : State :=
  { State.reset with
    dstid := Memory.writeRange [] 0 (ascii dst)
    dstlen := BitVec.ofNat 4 dst.length
    srcid := Memory.writeRange [] 0 (ascii src)
    srclen := BitVec.ofNat 4 src.length }

/-- The reset state with a payload written by the host. -/
def loaded (pay : List Char) : State :=
  { State.reset with payload := Memory.writeRange [] 0 (ascii pay), paylen := BitVec.ofNat 9 pay.length }

/-- The reset state with the three session registers written by the host. -/
def session (nr ns : BitVec 8) (pf : BitVec 1) : State := { State.reset with nr := nr, ns := ns, pf := pf }

/-- The reset state with one action coming. -/
def coming (a : HostAction) : State := { State.reset with pending := [a] }

/-- Scenario S1's identifiers (95_test_vectors.md section 1.1). -/
def s1 : State := ready ['N', 'J', '7', 'P'] ['N', '7', 'L', 'E', 'M']

/-! ### Decoding: the words of 30_encoding.md R84 and R94, bit by bit `OP S L X M C` -/

theorem test_decode_parse : decode 0b001_1_0_0_0_0#8 = some (.parse true) := by decide
theorem test_decode_encaddr : decode 0b010_0_0_0_1_0#8 = some (.encaddr true false) := by decide
theorem test_decode_bldctl : decode 0b011_0_0_0_0_0#8 = some .bldctl := by decide
theorem test_decode_bldctlc : decode 0b011_0_0_1_0_0#8 = some .bldctlc := by decide
theorem test_decode_fcs : decode 0b100_1_0_0_0_0#8 = some (.fcs true) := by decide
theorem test_decode_asmfrm : decode 0b101_0_1_0_0_0#8 = some (.asmfrm true) := by decide
theorem test_decode_mkfrm : decode 0b110_0_1_1_0_1#8 = some (.mkfrm true true false true) := by decide
theorem test_decode_mkfrm_with_S : decode 0xD9#8 = none := by decide
theorem test_decode_op_zero : decode 0x00#8 = none := by decide
theorem test_decode_op_seven : decode 0xE0#8 = none := by decide
theorem test_encode_examples :
    [encode (.parse true), encode (.encaddr true true), encode .bldctlc, encode (.asmfrm true),
      encode (.mkfrm true false false true)] = [0x30#8, 0x43#8, 0x64#8, 0xA8#8, 0xC9#8] := by decide
theorem test_decodeTableWord : decodeTableWord 8 0x41 = some (.encaddr false true) := by decide
theorem test_decodeTableWord_wide : decodeTableWord 16 0x141 = none := by decide

/-! ### Well-formedness: one ill-formed host action for each check (93_implementation_defined.md U2, U3, U6) -/

theorem test_wf_register_20 : (HostAction.wr 20 0).wf = false := by decide
theorem test_wf_octet_register_20 : (HostAction.wrOctet 20 0 0).wf = false := by decide
theorem test_wf_value_wider_than_DSTLEN : (HostAction.wr 2 16).wf = false := by decide
theorem test_wf_word_wider_than_CMD : (HostAction.cmd 0x1FF).wf = false ∧ (HostAction.wr 0 256).wf = false := by decide
theorem test_wf_octet_value_wider : (HostAction.wrOctet 3 0 256).wf = false := by decide
theorem test_wf_index_beyond_DSTID : (HostAction.wrOctet 3 15 0).wf = false ∧ (HostAction.rdOctet 12 14).wf = false := by
  decide
theorem test_wf_buffer_as_a_whole : (HostAction.wr 3 0).wf = false ∧ (HostAction.rd 16).wf = false := by decide
theorem test_wf_scalar_by_octet : (HostAction.wrOctet 13 0 0).wf = false ∧ (HostAction.rdOctet 0 0).wf = false := by
  decide
theorem test_wf_accepts_the_edges :
    (HostAction.wr 2 15).wf ∧ (HostAction.wrOctet 3 14 255).wf ∧ (HostAction.rdOctet 16 530).wf ∧ (HostAction.rd 19).wf ∧
      (HostAction.cmd 255).wf := by decide
theorem test_wf_instr : (Instr.mkfrm true true true true).wf = true := by decide

/-! ### One step of each command -/

/-- 95_test_vectors.md section 2.1, `NJ7P-15`. -/
theorem test_parse : after (exec (.parse false) (ready ['N', 'J', '7', 'P', '-', '1', '5'] []))
    (fun t => (t.plen, t.pssid, t.pcall.readRange 0 6, t.err)) =
    some (4#3, 15#4, [0x4E#8, 0x4A#8, 0x37#8, 0x50#8, 0x20#8, 0x20#8], 0#2) := by decide
/-- 95_test_vectors.md section 4: PARSE does not accept `AB-01`. -/
theorem test_parse_leading_zero : after (exec (.parse true) (ready ['A', 'B'] ['A', 'B', '-', '0', '1']))
    (fun t => (t.plen, t.err)) = some (0#3, 1#2) := by decide
/-- 95_test_vectors.md section 2.2, the row `99-10`, `000000-15`. -/
theorem test_encaddr : after (exec (.encaddr false true)
    (ready ['9', '9', '-', '1', '0'] ['0', '0', '0', '0', '0', '0', '-', '1', '5'])) (fun t => t.addr.readRange 0 14) =
    some ([0x72#8, 0x72#8, 0x40#8, 0x40#8, 0x40#8, 0x40#8, 0xF4#8] ++
      [0x60#8, 0x60#8, 0x60#8, 0x60#8, 0x60#8, 0x60#8, 0x7F#8]) := by decide
/-- 95_test_vectors.md section 2.2, the row `NJ7P-16`. -/
theorem test_encaddr_fails : after (exec (.encaddr false true)
    (ready ['N', 'J', '7', 'P', '-', '1', '6'] ['N', '7', 'L', 'E', 'M'])) (fun t => (t.addr, t.err)) =
    some ([], 1#2) := by decide
/-- 95_test_vectors.md section 2.3, the rows NR = 3, NS = 5, PF = 1 and NR = 3, NS = 8, PF = 1. -/
theorem test_bldctl : [after (exec .bldctl (session 3#8 5#8 1#1)) State.ctrl,
    after (exec .bldctl (session 3#8 8#8 1#1)) State.ctrl] = [some 0x0A#8, some 0x70#8] := by decide
/-- 95_test_vectors.md section 2.3, the rows NR = 8, NS = 2, PF = 1 and NR = 3, NS = -1, PF = 0. -/
theorem test_bldctlc : [after (exec .bldctlc (session 8#8 2#8 1#1)) State.ctrl,
    after (exec .bldctlc (session 3#8 0xFF#8 0#1)) State.ctrl] = [some 0x14#8, some 0x60#8] := by decide
set_option maxRecDepth 20000 in
/-- 95_test_vectors.md section 2.4, `123456789`, and the reset state's frame body. -/
theorem test_fcs : [after (exec (.fcs false) (loaded ['1', '2', '3', '4', '5', '6', '7', '8', '9'])) State.fcsr,
    after (exec (.fcs true) State.reset) State.fcsr] = [some 0x906E#16, some 0x5826#16] := by decide
set_option maxRecDepth 20000 in
/-- 95_test_vectors.md section 2.5, the reset state without leading flag. -/
theorem test_asmfrm : after (exec (.asmfrm false) State.reset) (fun t => (t.frmlen, t.frame.readRange 14 5)) =
    some (19#10, [0x00#8, 0xF0#8, 0x58#8, 0x26#8, 0x7E#8]) := by decide
set_option maxRecDepth 20000 in
/-- 95_test_vectors.md section 2.6, the first row. -/
theorem test_mkfrm : after (exec (.mkfrm true false false true) s1)
    (fun t => (t.frmlen, t.fcsr, t.frame.readRange 0 20)) =
    some (20#10, 0xC3DB#16, [0x7E#8, 0x9C#8, 0x94#8, 0x6E#8, 0xA0#8, 0x40#8, 0x40#8, 0xE0#8, 0x9C#8, 0x6E#8] ++
      [0x98#8, 0x8A#8, 0x9A#8, 0x40#8, 0x61#8, 0x00#8, 0xF0#8, 0xC3#8, 0xDB#8, 0x7E#8]) := by decide
/-- 95_test_vectors.md section 2.6, the last row: a failed MKFRM clears FRMLEN and keeps CTRL. -/
theorem test_mkfrm_fails : after (exec (.mkfrm true false false true)
    { ready ['N', 'J', '7', 'P'] ['n', '7', 'l', 'e', 'm'] with frmlen := 25#10, ctrl := 0x0A#8 })
    (fun t => (t.frmlen, t.ctrl, t.err)) = some (0#10, 0x0A#8, 1#2) := by decide
/-- 95_test_vectors.md section 2.7: after an illegal word STATUS = 02. -/
theorem test_illegal_word : after (step (coming (.cmd 0xD9))) State.status = some 0x02#8 := by decide
/-- A placed word is what the next step runs. -/
theorem test_withFetchWord : after (step (s1.withFetchWord 8 0x41)) (fun t => (t.addr.read 6, t.pending)) =
    some (0xE0#8, []) := by decide

/-! ### Witnesses: what meets the hypotheses of each claim -/

/-- An identifier in the grammar. -/
theorem denotes_NJ7P : Denotes (ascii ['N', 'J', '7', 'P']) (ascii ['N', 'J', '7', 'P']) 0 :=
  ⟨by decide, .inl ⟨rfl, rfl⟩⟩

theorem denotes_N7LEM : Denotes (ascii ['N', '7', 'L', 'E', 'M']) (ascii ['N', '7', 'L', 'E', 'M']) 0 :=
  ⟨by decide, .inl ⟨rfl, rfl⟩⟩

/-- The longest identifier in the grammar, with the largest SSID. -/
theorem denotes_ABCDEF_15 : Denotes (ascii ['A', 'B', 'C', 'D', 'E', 'F', '-', '1', '5'])
    (ascii ['A', 'B', 'C', 'D', 'E', 'F']) 15 :=
  ⟨by decide, .inr ⟨by decide, by decide⟩⟩

/-- The same callsign with another SSID. -/
theorem denotes_NJ7P_15 : Denotes (ascii ['N', 'J', '7', 'P', '-', '1', '5']) (ascii ['N', 'J', '7', 'P']) 15 :=
  ⟨by decide, .inr ⟨by decide, by decide⟩⟩

/-- The empty identifier is not in it. -/
theorem empty_not_valid : ¬ ValidIdentifier [] := by
  rintro ⟨call, n, ⟨h, _, _⟩, (⟨h', _⟩ | ⟨_, h'⟩)⟩
  · subst h'; simp at h
  · simp at h'

theorem s1_destination : destination s1 = ascii ['N', 'J', '7', 'P'] := by decide

theorem s1_source : source s1 = ascii ['N', '7', 'L', 'E', 'M'] := by decide

theorem witness_ResetEventRestoresEveryRegister : (coming .reset).pending = .reset :: [] := rfl

theorem witness_RegisterTableNumbersShapesAccess : 20 ≤ 20 := by decide

theorem witness_IllegalWordsChangeOnlyStatus :
    ((0x1F < 256 ∧ 0x1F < 0x20) ∧ (0xFF < 256 ∧ 0xE0 ≤ 0xFF)) ∧
    (255 < 256 ∧ decode (BitVec.ofNat 8 255) = none ∧
      ({ State.reset with pending := [.cmd 255, .rd 1] } : State).pending = .cmd 255 :: [.rd 1] ∧
      [HostAction.rd 1] = .rd 1 :: []) := by decide

theorem witness_DecodeAndEncodeAreInverse : (Instr.bldctlc).wf = true := by decide

theorem witness_StepRunsTheDecodedCommand :
    (0xC9 < 256 ∧ decode (BitVec.ofNat 8 0xC9) = some (.mkfrm true false false true) ∧
      (coming (.cmd 0xC9)).pending = .cmd 0xC9 :: [] ∧ (coming (.wr 0 0xC9)).pending = .wr 0 0xC9 :: []) ∧
    (0xE0 < 256 ∧ decode (BitVec.ofNat 8 0xE0) = none ∧ (coming (.wr 0 0xE0)).pending = .wr 0 0xE0 :: []) ∧
    (0x20 < 256 ∧ decodeTableWord 8 0x20 = some (.parse false)) ∧ (coming (.rd 0)).pending = .rd 0 :: [] := by decide

theorem witness_WaitingBlockChangesNothing : State.reset.pending = [] := rfl

theorem witness_HostAccessesTouchOnlyTheirRegister :
    (regOfNumber 2 = some .dstlen ∧ regShape .dstlen = .scalar 4 ∧ 15 < 2 ^ 4 ∧
      (coming (.wr 2 15)).pending = .wr 2 15 :: []) ∧
    (regOfNumber 1 = some .status ∧ regShape .status = .scalar 8 ∧ 255 < 2 ^ 8 ∧
      (coming (.wr 1 255)).pending = .wr 1 255 :: []) ∧
    (regOfNumber 3 = some .dstid ∧ regShape .dstid = .buffer 15 ∧ 14 < 15 ∧ 255 < 256 ∧
      (coming (.wrOctet 3 14 255)).pending = .wrOctet 3 14 255 :: []) ∧
    (regOfNumber 16 = some .frame ∧ regShape .frame = .buffer 531 ∧ 530 < 531 ∧ 1 < 256 ∧
      (coming (.wrOctet 16 530 1)).pending = .wrOctet 16 530 1 :: []) ∧
    (regOfNumber 19 = some .pssid ∧ regShape .pssid = .scalar 4 ∧ (coming (.rd 19)).pending = .rd 19 :: []) ∧
    (regOfNumber 12 = some .addr ∧ regShape .addr = .buffer 14 ∧ 13 < 14 ∧
      (coming (.rdOctet 12 13)).pending = .rdOctet 12 13 :: []) ∧
    (coming (.rd 0)).pending = .rd 0 :: [] := by decide

theorem witness_HostActionsCompleteExactlyWhenWellFormed :
    (coming (.wr 2 15)).pending = .wr 2 15 :: [] ∧ (coming (.wr 2 16)).pending = .wr 2 16 :: [] := by decide

theorem witness_ActionsOutsideTheAlphabetAreRefused :
    (20 ≤ 20 ∧ (coming (.wr 20 0)).pending = .wr 20 0 :: []) ∧
    (regOfNumber 17 = some .plen ∧ regShape .plen = .scalar 3 ∧ 2 ^ 3 ≤ 8 ∧
      (coming (.wr 17 8)).pending = .wr 17 8 :: []) ∧
    (regOfNumber 11 = some .payload ∧ regShape .payload = .buffer 511 ∧ 510 < 511 ∧ 256 ≤ 256 ∧
      (coming (.wrOctet 11 510 256)).pending = .wrOctet 11 510 256 :: []) ∧
    (256 ≤ 256 ∧ (coming (.cmd 256)).pending = .cmd 256 :: []) ∧
    (regOfNumber 18 = some .pcall ∧ regShape .pcall = .buffer 6 ∧ 6 ≤ 6 ∧
      (coming (.rdOctet 18 6)).pending = .rdOctet 18 6 :: []) ∧
    (regOfNumber 5 = some .srcid ∧ regShape .srcid = .buffer 15 ∧ (coming (.rd 5)).pending = .rd 5 :: []) ∧
    (regOfNumber 0 = some .cmd ∧ regShape .cmd = .port ∧ (coming (.rdOctet 0 0)).pending = .rdOctet 0 0 :: []) := by
  decide

theorem witness_WrsWritesTheString :
    ((List.replicate 15 0x41#8).length ≤ 15 ∧
      ({ State.reset with pending := wrsActions .dstid (List.replicate 15 0x41#8) ++ [] } : State).pending =
        wrsActions .dstid (List.replicate 15 0x41#8) ++ []) ∧
    (([] : List Octet).length ≤ 15 ∧
      ({ State.reset with pending := wrsActions .srcid [] ++ [.cmd 0x30] } : State).pending =
        wrsActions .srcid [] ++ [.cmd 0x30]) ∧
    ((List.replicate 511 0x7E#8).length ≤ 511 ∧
      ({ State.reset with pending := wrsActions .payload (List.replicate 511 0x7E#8) ++ [] } : State).pending =
        wrsActions .payload (List.replicate 511 0x7E#8) ++ []) :=
  ⟨⟨by decide, rfl⟩, ⟨by decide, rfl⟩, ⟨Nat.le_of_eq List.length_replicate, rfl⟩⟩

theorem witness_ParseAcceptsExactlyTheGrammar : IsCallsign (ascii ['A', 'B']) := by decide

theorem witness_ParserLaws :
    (IsCallsign (ascii ['A', 'B', 'C', 'D', 'E', 'F']) ∧ 15 ≤ 15) ∧
    (0x2D#8 ∉ ascii ['A'] ∧ (0x2D#8 :: ascii ['1'] = [] ∨ ∃ suffix, 0x2D#8 :: ascii ['1'] = 0x2D#8 :: suffix) ∧
      (ascii ['A']).length < 2) ∧
    (6 < (ascii ['A', 'B', 'C', 'D', 'E', 'F', 'G']).length) ∧ (∃ c ∈ ascii ['a', 'b'], ¬ IsCallChar c) ∧
    (IsCallsign (ascii ['A', 'B']) ∧ 15 < 16) ∧
    ∃ t, exec (.parse false) s1 = .next t ∧ t.err = 0#2 :=
  ⟨by decide, ⟨by decide, .inr ⟨_, rfl⟩, by decide⟩, by decide, by decide, by decide, _, rfl, by decide⟩

theorem witness_LongIdentifiersAreInvalid : 10 ≤ (List.replicate 10 0x41#8).length ∧ 10 ≤ 15 := by decide

theorem witness_ParseStoresTheSelectedStationId :
    Denotes (s1.dstid.readRange 0 s1.dstlen.toNat) (ascii ['N', 'J', '7', 'P']) 0 ∧
    Denotes (s1.srcid.readRange 0 s1.srclen.toNat) (ascii ['N', '7', 'L', 'E', 'M']) 0 ∧
    ¬ ValidIdentifier (State.reset.dstid.readRange 0 State.reset.dstlen.toNat) ∧
    (ready ['N', 'J', '7', 'P', '-', '1', '5'] []).dstid.readRange 0
      (ready ['N', 'J', '7', 'P', '-', '1', '5'] []).dstlen.toNat = ascii ['N', 'J', '7', 'P', '-', '1', '5'] :=
  ⟨s1_destination ▸ denotes_NJ7P, s1_source ▸ denotes_N7LEM, empty_not_valid, by decide⟩

theorem witness_FailedCommandsLeaveTheirResults :
    ¬ ValidIdentifier (destination State.reset) ∧ ¬ ValidIdentifier (source State.reset) :=
  ⟨empty_not_valid, empty_not_valid⟩

theorem witness_EncaddrWritesTheAddressField :
    (∃ r, encodeAddr (s1.dstid.readRange 0 s1.dstlen.toNat) (s1.srcid.readRange 0 s1.srclen.toNat) true false = some r) ∧
    encodeAddr (State.reset.dstid.readRange 0 State.reset.dstlen.toNat)
      (State.reset.srcid.readRange 0 State.reset.srclen.toNat) true false = none ∧
    s1.dstid.readRange 0 s1.dstlen.toNat = ascii ['N', 'J', '7', 'P'] ∧
    s1.srcid.readRange 0 s1.srclen.toNat = ascii ['N', '7', 'L', 'E', 'M'] :=
  ⟨⟨_, rfl⟩, by decide, by decide, by decide⟩

theorem witness_AddressFieldClosedForm :
    Denotes (ascii ['A', 'B', 'C', 'D', 'E', 'F', '-', '1', '5']) (ascii ['A', 'B', 'C', 'D', 'E', 'F']) 15 ∧
    Denotes (ascii ['N', '7', 'L', 'E', 'M']) (ascii ['N', '7', 'L', 'E', 'M']) 0 ∧ ¬ ValidIdentifier [] :=
  ⟨denotes_ABCDEF_15, denotes_N7LEM, empty_not_valid⟩

theorem witness_AddressFieldBitInvariants :
    (∃ t, exec (.encaddr false true) s1 = .next t ∧ t.err = 0#2) ∧
    ∃ t, exec (.mkfrm true false true false) s1 = .next t ∧ t.err = 0#2 :=
  ⟨⟨_, rfl, by decide⟩, ⟨_, rfl, by decide⟩⟩

theorem witness_AddressFieldRoundTrip :
    Denotes (destination s1) (ascii ['N', 'J', '7', 'P']) 0 ∧ Denotes (source s1) (ascii ['N', '7', 'L', 'E', 'M']) 0 ∧
    (∃ t, exec (.encaddr false true) s1 = .next t) ∧ ∃ t, exec (.mkfrm true false true false) s1 = .next t :=
  ⟨s1_destination ▸ denotes_NJ7P, s1_source ▸ denotes_N7LEM, ⟨_, rfl⟩, ⟨_, rfl⟩⟩

theorem witness_AddressFieldDependence :
    (∀ C M, ∃ a, encodeAddr (ascii ['N', 'J', '7', 'P']) (ascii ['N', '7', 'L', 'E', 'M']) C M = some a) ∧
    (∀ C M, ∃ a, encodeAddr (ascii ['N', 'J', '7', 'P', '-', '1', '5']) (ascii ['N', '7', 'L', 'E', 'M']) C M = some a) ∧
    (∀ C M, ∃ a, encodeAddr (ascii ['N', 'J', '7', 'P']) (ascii ['N', 'J', '7', 'P', '-', '1', '5']) C M = some a) ∧
    Denotes (ascii ['N', 'J', '7', 'P']) (ascii ['N', 'J', '7', 'P']) 0 ∧
    Denotes (ascii ['N', 'J', '7', 'P', '-', '1', '5']) (ascii ['N', 'J', '7', 'P']) 15 ∧
    Denotes (ascii ['N', '7', 'L', 'E', 'M']) (ascii ['N', '7', 'L', 'E', 'M']) 0 :=
  ⟨fun _ _ => ⟨_, rfl⟩, fun _ _ => ⟨_, rfl⟩, fun _ _ => ⟨_, rfl⟩, denotes_NJ7P, denotes_NJ7P_15, denotes_N7LEM⟩

theorem witness_BldctlWritesTheLiteralOctet :
    (0 ≤ (session 0#8 7#8 0#1).ns.toInt ∧ (session 0#8 7#8 0#1).ns.toInt < 8) ∧
    ¬ (0 ≤ (session 7#8 8#8 1#1).ns.toInt ∧ (session 7#8 8#8 1#1).ns.toInt < 8) ∧
    ¬ (0 ≤ (session 8#8 0xFF#8 1#1).ns.toInt ∧ (session 8#8 0xFF#8 1#1).ns.toInt < 8) ∧
    ((session 3#8 5#8 1#1).nr.toInt = 3 ∧ (session 3#8 5#8 1#1).ns.toInt = 5 ∧ (session 3#8 5#8 1#1).pf = 1#1) ∧
    ((session 3#8 8#8 1#1).nr.toInt = 3 ∧ (session 3#8 8#8 1#1).ns.toInt = 8 ∧ (session 3#8 8#8 1#1).pf = 1#1) := by
  decide

theorem witness_BldctlcWritesTheCombinedOctet :
    ((session 3#8 5#8 1#1).nr.toInt = 3 ∧ (session 3#8 5#8 1#1).ns.toInt = 5 ∧ (session 3#8 5#8 1#1).pf = 1#1) ∧
    ((session 7#8 7#8 1#1).nr.toInt = 7 ∧ (session 7#8 7#8 1#1).ns.toInt = 7 ∧ (session 7#8 7#8 1#1).pf = 1#1) := by
  decide

theorem witness_SequenceNumberRangeTest : 4 ≤ 4 ∧ 7#4 >>> (3 : Nat) = 0#4 := by decide

theorem witness_FrameTypeBitIsZero :
    (∃ t, exec .bldctl (session 7#8 7#8 1#1) = .next t ∧ t.err = 0#2) ∧
    (∃ t, exec .bldctlc (session 7#8 7#8 1#1) = .next t ∧ t.err = 0#2) ∧
    ∃ t, exec (.mkfrm false true false false) s1 = .next t ∧ t.err = 0#2 :=
  ⟨⟨_, rfl, by decide⟩, ⟨_, rfl, by decide⟩, ⟨_, rfl, by decide⟩⟩

/-- The reset state with scenario S1's address field in ADDR, and a payload. -/
def addressed (pay : List Char) (ctrl : Octet) : State :=
  { loaded pay with
    addr := Memory.writeRange [] 0 ([0x9C#8, 0x94#8, 0x6E#8, 0xA0#8, 0x40#8, 0x40#8, 0xE0#8] ++
      [0x9C#8, 0x6E#8, 0x98#8, 0x8A#8, 0x9A#8, 0x40#8, 0x61#8])
    ctrl := ctrl }

theorem witness_FcsWritesTheCrcOfItsBody :
    State.reset.paylen = 0#9 ∧
    (loaded ['1', '2', '3', '4', '5', '6', '7', '8', '9']).payload.readRange 0
      (loaded ['1', '2', '3', '4', '5', '6', '7', '8', '9']).paylen.toNat =
      ascii ['1', '2', '3', '4', '5', '6', '7', '8', '9'] ∧
    (addressed [] 0x00#8).addr.readRange 0 14 = [0x9C#8, 0x94#8, 0x6E#8, 0xA0#8, 0x40#8, 0x40#8, 0xE0#8] ++
      [0x9C#8, 0x6E#8, 0x98#8, 0x8A#8, 0x9A#8, 0x40#8, 0x61#8] ∧ (addressed [] 0x00#8).ctrl = 0x00#8 ∧
    (addressed [] 0x00#8).pid = 0xF0#8 ∧ (addressed [] 0x00#8).paylen = 0#9 := by decide

theorem witness_SingleBitChangeChangesTheCrc : 7 < 8 := by decide

theorem witness_WorkedFrames_asmfrm :
    (addressed ['H', 'E', 'L', 'L', 'O'] 0x0A#8).addr.readRange 0 14 =
      [0x9C#8, 0x94#8, 0x6E#8, 0xA0#8, 0x40#8, 0x40#8, 0xE0#8] ++
      [0x9C#8, 0x6E#8, 0x98#8, 0x8A#8, 0x9A#8, 0x40#8, 0x61#8] ∧
    (addressed ['H', 'E', 'L', 'L', 'O'] 0x0A#8).ctrl = 0x0A#8 ∧
    (addressed ['H', 'E', 'L', 'L', 'O'] 0x0A#8).pid = 0xF0#8 ∧
    (addressed ['H', 'E', 'L', 'L', 'O'] 0x0A#8).payload.readRange 0
      (addressed ['H', 'E', 'L', 'L', 'O'] 0x0A#8).paylen.toNat = ascii ['H', 'E', 'L', 'L', 'O'] := by decide

theorem witness_FrameLayout :
    (∃ t, exec (.asmfrm true) (loaded ['A']) = .next t ∧ t.err = 0#2) ∧
    (∃ t, exec (.asmfrm false) (loaded ['A']) = .next t ∧ t.err = 0#2) ∧
    ∃ t, exec (.mkfrm true true true true) s1 = .next t ∧ t.err = 0#2 :=
  ⟨⟨_, rfl, by decide⟩, ⟨_, rfl, by decide⟩, ⟨_, rfl, by decide⟩⟩

theorem witness_AsmfrmWritesTheFrame :
    ∃ body, body = s1.addr.readRange 0 14 ++ [s1.ctrl] ++ [s1.pid] ++ s1.payload.readRange 0 s1.paylen.toNat :=
  ⟨_, rfl⟩

theorem witness_MkfrmBuildsTheWholeFrame :
    (∃ r, encodeAddr (s1.dstid.readRange 0 s1.dstlen.toNat) (s1.srcid.readRange 0 s1.srclen.toNat) true false = some r) ∧
    encodeAddr (State.reset.dstid.readRange 0 State.reset.dstlen.toNat)
      (State.reset.srcid.readRange 0 State.reset.srclen.toNat) true false = none :=
  ⟨⟨_, rfl⟩, by decide⟩

theorem witness_WorkedFrames_mkfrm :
    s1.dstid.readRange 0 s1.dstlen.toNat = ascii ['N', 'J', '7', 'P'] ∧
    s1.srcid.readRange 0 s1.srclen.toNat = ascii ['N', '7', 'L', 'E', 'M'] ∧
    s1.nr = 0#8 ∧ s1.ns = 0#8 ∧ s1.pf = 0#1 ∧ s1.pid = 0xF0#8 ∧ s1.paylen = 0#9 := by decide

theorem witness_MkfrmEqualsTheSequence :
    (ValidIdentifier (destination s1) ∧ ValidIdentifier (source s1)) ∧
    ¬ ValidIdentifier (destination State.reset) ∧ ¬ ValidIdentifier (source State.reset) :=
  ⟨⟨⟨_, _, s1_destination ▸ denotes_NJ7P⟩, ⟨_, _, s1_source ▸ denotes_N7LEM⟩⟩, empty_not_valid, empty_not_valid⟩

theorem witness_OnlyHostWritesAndResetChangeOperands :
    (∃ t, step (coming (.cmd 0x60)) = .next t) ∧
    ∀ a rest, (coming (.cmd 0x60)).pending = a :: rest →
      a ≠ .reset ∧ (∀ n v, n ≠ 0 → a ≠ .wr n v) ∧ ∀ n i v, a ≠ .wrOctet n i v := by
  refine ⟨⟨_, rfl⟩, ?_⟩
  intro a rest h
  simp only [coming, List.cons.injEq] at h
  obtain ⟨rfl, _⟩ := h
  simp

theorem witness_CommandsWriteOnlyTheirWriteSet :
    (∃ t, exec (.parse false) s1 = .next t) ∧ (∃ t, exec (.encaddr false false) s1 = .next t) ∧
    (∃ t, exec .bldctl s1 = .next t) ∧ (∃ t, exec .bldctlc s1 = .next t) ∧ (∃ t, exec (.fcs true) s1 = .next t) ∧
    (∃ t, exec (.asmfrm true) s1 = .next t) ∧
    (∃ t, exec (.mkfrm true true true true) s1 = .next t ∧ t.err = 0#2) ∧
    ∃ t, exec (.mkfrm true true true true) State.reset = .next t ∧ t.err ≠ 0#2 :=
  ⟨⟨_, rfl⟩, ⟨_, rfl⟩, ⟨_, rfl⟩, ⟨_, rfl⟩, ⟨_, rfl⟩, ⟨_, rfl⟩, ⟨_, rfl, by decide⟩, ⟨_, rfl, by decide⟩⟩

/-- Scenario S1 with a CTRL, an ADDR, a StationId and an octet beyond DSTLEN of its own: outside what PARSE, ENCADDR,
BLDCTL, BLDCTLC, FCS of the payload and MKFRM read. -/
def s1' : State :=
  { s1 with ctrl := 0x55#8, addr := [(3, 1#8)], plen := 2#3, dstid := s1.dstid.write 14 0x7E#8 }

/-- The reset state with a destination, an NR and a FRAME of its own: outside what FCS of the frame body and ASMFRM read. -/
def bodyOnly : State := { State.reset with dstlen := 3#4, nr := 5#8, frmlen := 25#10, frame := [(0, 0x7E#8)] }

theorem witness_CommandsDependOnlyOnTheirReadSet :
    (s1 ≠ s1' ∧ identifier false s1 = identifier false s1' ∧ destination s1 = destination s1' ∧ source s1 = source s1' ∧
      (s1.nr = s1'.nr ∧ s1.ns = s1'.ns ∧ s1.pf = s1'.pf) ∧ s1.pid = s1'.pid ∧ payloadOctets s1 = payloadOctets s1') ∧
    (State.reset ≠ bodyOnly ∧ addressField State.reset = addressField bodyOnly ∧ State.reset.ctrl = bodyOnly.ctrl ∧
      State.reset.pid = bodyOnly.pid ∧ payloadOctets State.reset = payloadOctets bodyOnly) ∧
    (∀ s ∈ [s1, s1'], ∀ i ∈ [Instr.parse false, .encaddr true true, .bldctl, .bldctlc, .fcs false,
      .mkfrm true true true true], ∃ t, exec i s = .next t ∧ t.err = 0#2) ∧
    ∀ s ∈ [State.reset, bodyOnly], ∀ i ∈ [Instr.fcs true, .asmfrm true], ∃ t, exec i s = .next t ∧ t.err = 0#2 := by
  refine ⟨by decide, by decide, ?_, ?_⟩
  · simp only [List.mem_cons, List.not_mem_nil, or_false]
    rintro s (rfl | rfl) i (rfl | rfl | rfl | rfl | rfl | rfl) <;> exact ⟨_, rfl, by decide⟩
  · simp only [List.mem_cons, List.not_mem_nil, or_false]
    rintro s (rfl | rfl) i (rfl | rfl) <;> exact ⟨_, rfl, by decide⟩

theorem witness_EveryCommandReportsItsOutcome :
    (255 < 256 ∧ (coming (.cmd 255)).pending = .cmd 255 :: []) ∧
    (ValidIdentifier (destination s1) ∧ ValidIdentifier (source s1)) ∧ ¬ ValidIdentifier (destination State.reset) ∧
    ((coming (.wr 2 15)).pending = .wr 2 15 :: [] ∧ (∃ t, step (coming (.wr 2 15)) = .next t) ∧ (2 : Nat) ≠ 0) ∧
    (∃ t, step (coming (.wrOctet 3 14 1)) = .next t) ∧ (∃ t, step (coming (.rd 1)) = .next t) ∧
    ∃ t, step (coming (.rdOctet 16 0)) = .next t :=
  ⟨by decide, ⟨⟨_, _, s1_destination ▸ denotes_NJ7P⟩, ⟨_, _, s1_source ▸ denotes_N7LEM⟩⟩, empty_not_valid,
    ⟨rfl, ⟨_, rfl⟩, by decide⟩, ⟨_, rfl⟩, ⟨_, rfl⟩, ⟨_, rfl⟩⟩

theorem witness_RepeatingACommandChangesNothing :
    s1.BuffersCanonical ∧ ∃ t, exec (.mkfrm true false false true) s1 = .next t :=
  ⟨by decide, _, rfl⟩

theorem witness_OctetsBeyondTheLengthAreNotRead :
    (∃ t, exec (.mkfrm true false false true) s1 = .next t) ∧ s1.dstlen.toNat ≤ 4 ∧ s1.srclen.toNat ≤ 5 ∧
    s1.paylen.toNat ≤ 0 ∧
    ((14 < 15 ∧ (coming (.rdOctet 3 14)).pending = .rdOctet 3 14 :: []) ∧
      (530 < 531 ∧ (coming (.rdOctet 16 530)).pending = .rdOctet 16 530 :: [])) ∧
    (15 < 2 ^ 4 ∧ (coming (.wr 2 15)).pending = .wr 2 15 :: []) ∧
    (15 < 2 ^ 4 ∧ (coming (.wr 4 15)).pending = .wr 4 15 :: []) ∧
    (511 < 2 ^ 9 ∧ (coming (.wr 10 511)).pending = .wr 10 511 :: []) :=
  ⟨⟨_, rfl⟩, by decide, by decide, by decide, by decide, by decide, by decide, by decide⟩

theorem witness_FrameLengthAlwaysFits : 1 ≤ 1 ∧ 5 ≤ 5 ∧ 4 < 5 := by decide

theorem witness_StepKeepsBuffersCanonical :
    (coming (.wrOctet 3 14 1)).BuffersCanonical ∧ ∃ t, step (coming (.wrOctet 3 14 1)) = .next t :=
  ⟨by decide, _, rfl⟩

theorem witness_StepKeepsStatusLegal :
    (coming (.cmd 0)).StatusLegal ∧ ∃ t, step (coming (.cmd 0)) = .next t :=
  ⟨by decide, _, rfl⟩

theorem witness_StepKeepsStationIdValid :
    (s1.withFetchWord 8 0x20).StationIdValid ∧ ∃ t, step (s1.withFetchWord 8 0x20) = .next t ∧ t.plen = 4#3 :=
  ⟨by decide, _, rfl, by decide⟩

theorem witness_StepKeepsFrameComplete :
    (s1.withFetchWord 8 0xC9).FrameComplete ∧ ∃ t, step (s1.withFetchWord 8 0xC9) = .next t ∧ t.frmlen = 20#10 :=
  ⟨.inl rfl, _, rfl, by decide⟩

end Sys2Proof.Tests
end

section
/-!
PROOFS. Reset and the operand registers (10_state.md R38, R45).
-/

namespace Sys2Proof.Machine

/-! ### The operand registers -/

/-- The ten operand registers, in the order 10_state.md R38 lists them. -/
def State.operands (s : State) :=
  (s.dstlen, s.dstid, s.srclen, s.srcid, s.nr, s.ns, s.pf, s.pid, s.paylen, s.payload)

@[simp] theorem State.setErr_operands (e : Err) (s : State) : (s.setErr e).operands = s.operands := rfl

@[simp] theorem State.setStation_operands (k : Nat) (p : List Octet) (n : Nat) (s : State) :
    (s.setStation k p n).operands = s.operands := rfl

@[simp] theorem State.setAddr_operands (a : List Octet) (s : State) : (s.setAddr a).operands = s.operands := rfl

@[simp] theorem State.setCtrl_operands (c : Octet) (s : State) : (s.setCtrl c).operands = s.operands := rfl

@[simp] theorem State.setFcsr_operands (c : Word16) (s : State) : (s.setFcsr c).operands = s.operands := rfl

@[simp] theorem State.storeFrame_operands (r : List Octet × Word16) (s : State) :
    (s.storeFrame r).operands = s.operands := rfl

@[simp] theorem State.clearFrame_operands (s : State) : s.clearFrame.operands = s.operands := rfl

@[simp] theorem State.answer_operands (v : Nat) (s : State) : (s.answer v).operands = s.operands := rfl

@[simp] theorem State.withPending_operands (s : State) (rest : List HostAction) :
    ({ s with pending := rest } : State).operands = s.operands := rfl

@[simp] theorem makeFrame_operands (L X : Bool) (a : List Octet) (s : State) :
    (makeFrame L X a s).operands = s.operands := rfl

/-! ### What leaves them unchanged -/

theorem exec_keeps_operands {i : Instr} {s t : State} (h : exec i s = .next t) : t.operands = s.operands := by
  rcases exec_cases h with ⟨_, _, _, _, rfl⟩ | ⟨_, _, _, rfl⟩ | ⟨_, _, _, _, _, rfl⟩ | ⟨_, _, _, _, rfl⟩ |
    ⟨_, _, rfl⟩ | ⟨_, _, rfl⟩ | ⟨_, _, rfl⟩ | ⟨_, _, _, _, _, _, _, rfl⟩ | ⟨_, _, _, _, _, _, rfl⟩ <;> simp

theorem runCommand_keeps_operands {word : Nat} {s t : State} (h : runCommand word s = .next t) :
    t.operands = s.operands := by
  obtain ⟨_, ⟨i, _, hi⟩ | ⟨_, rfl⟩⟩ := runCommand_cases h
  · exact exec_keeps_operands hi
  · exact State.setErr_operands _ _

/-- Register 0 is the command port (10_state.md R21). -/
theorem performWr_zero (value : Nat) (s : State) : performWr 0 value s = runCommand value s := rfl

/-- A read of a register that completes hands out a value, and that is its whole effect (10_state.md R36). -/
theorem performRd_next {reg : Nat} {s t : State} (h : performRd reg s = .next t) : ∃ v, t = s.answer v := by
  unfold performRd at h
  split at h
  · cases h
  · split at h <;> cases h
    · exact ⟨_, rfl⟩
    · exact ⟨_, rfl⟩

/-- A read of a buffer octet that completes hands out a value, and that is its whole effect (10_state.md R36). -/
theorem performRdOctet_next {reg index : Nat} {s t : State} (h : performRdOctet reg index s = .next t) :
    ∃ v, t = s.answer v := by
  unfold performRdOctet at h
  split at h
  · cases h
  · split at h
    · cases h
    · cases h
    · split at h <;> cases h
      exact ⟨_, rfl⟩

/-- A host action that is no reset and no write of a register that holds something: commands in both their forms, and
reads. -/
theorem perform_keeps_operands {a : HostAction} {s t : State} (hreset : a ≠ .reset)
    (hwr : ∀ n v, n ≠ 0 → a ≠ .wr n v) (hoctet : ∀ n i v, a ≠ .wrOctet n i v) (h : perform a s = .next t) :
    t.operands = s.operands := by
  cases a with
  | wr reg value =>
    have hport : reg = 0 := by
      by_contra hne
      exact hwr reg value hne rfl
    subst hport
    rw [perform, performWr_zero] at h
    exact runCommand_keeps_operands h
  | wrOctet reg index value => exact absurd rfl (hoctet reg index value)
  | rd reg =>
    obtain ⟨v, rfl⟩ := performRd_next h
    exact State.answer_operands v s
  | rdOctet reg index =>
    obtain ⟨v, rfl⟩ := performRdOctet_next h
    exact State.answer_operands v s
  | cmd word => exact runCommand_keeps_operands h
  | reset => exact absurd rfl hreset

/-- Settles O42: a step waits or performs one host action, and of those only a host write or a reset reaches an operand
register. -/
theorem onlyHostWritesAndResetChangeOperands : Obligations.OnlyHostWritesAndResetChangeOperands := by
  intro s t hstep hno
  have hkept : t.operands = s.operands := by
    rcases step_cases hstep with ⟨_, rfl⟩ | ⟨a, rest, hpending, hperform⟩
    · rfl
    · obtain ⟨hreset, hwr, hoctet⟩ := hno a rest hpending
      simpa using perform_keeps_operands hreset hwr hoctet hperform
  simpa [State.operands] using hkept

/-! ### Reset -/

/-- The shortest identifiers are the two-character callsigns (40_callsign_parser.md R111). -/
theorem two_le_length_of_validIdentifier {text : List Octet} (h : ValidIdentifier text) : 2 ≤ text.length := by
  obtain ⟨call, n, ⟨hcall, _, _⟩, ⟨rfl, _⟩ | ⟨_, rfl⟩⟩ := h
  · exact hcall
  · simp only [List.length_append]
    omega

/-- Octet 6 of an encoded address field, the destination's SSID octet (41_address_encoder.md R132 steps 6 to 8). -/
theorem getElem?_six_packAddress (d s : StationId) (C M : Bool) :
    (packAddress d s C M)[6]? = (addressOctets d s)[6]?.map (fun (u : Octet) =>
      if C then (u <<< (1 : Nat) ||| 0x60#8) ||| 0x80#8 else (u <<< (1 : Nat) ||| 0x60#8) &&& 0x7F#8) := by
  cases C <;> cases M <;>
    simp [packAddress, setExtension, setCommandBits, setReserved, shiftOctets, Function.comp_def]

/-- The reserved bit 5 of octet 6 is set in every encoded address field (R132 step 7). -/
theorem packAddress_reservedBit {d s : StationId} {C M : Bool} {v : Octet}
    (h : (packAddress d s C M)[6]? = some v) : v.getLsbD 5 = true := by
  rw [getElem?_six_packAddress, Option.map_eq_some_iff] at h
  obtain ⟨u, _, rfl⟩ := h
  cases C <;> simp

/-- ADDR as reset leaves it is no address field (10_state.md R45: "not a valid Address14"). -/
theorem encodeAddr_ne_zeros (dst src : List Octet) (C M : Bool) :
    encodeAddr dst src C M ≠ some (List.replicate 14 0x00#8) := by
  intro h
  obtain ⟨_, d, s, _, _, hpack⟩ := encodeAddr_some h
  have hzero : (packAddress d s C M)[6]? = some 0x00#8 := by rw [← hpack]; rfl
  exact absurd (packAddress_reservedBit hzero) (by decide)

theorem addressField_reset : addressField State.reset = List.replicate 14 0x00#8 := rfl

/-- Settles O1: the registers' values are read off the reset state; that ADDR is then no address field is the reserved
bit. -/
theorem resetLeavesEveryRegisterAtItsValue : Obligations.ResetLeavesEveryRegisterAtItsValue := by
  have hempty : ¬ ValidIdentifier [] := fun h => absurd (two_le_length_of_validIdentifier h) (by decide)
  exact ⟨rfl, rfl, rfl, rfl, rfl, rfl, rfl, rfl, rfl, rfl, rfl, rfl, rfl,
    fun _ => ⟨rfl, rfl, rfl, rfl, rfl, rfl⟩, rfl, rfl, rfl, addressField_reset, hempty,
    addressField_reset ▸ encodeAddr_ne_zeros⟩

end Sys2Proof.Machine
end

section
/-!
PROOFS. The command word: the opcode map, the decoder and the encoder (30_encoding.md R82, R84, R95).
-/

namespace Sys2Proof

/-! ### The opcode map -/

theorem OpcodeRow.holds_iff {row : OpcodeRow} {w : BitVec 8} : row.holds w = true ↔ w &&& row.mask = row.pattern :=
  beq_iff_eq

/-- Both patterns are read off the one word, so they agree in the bits that both masks keep. -/
theorem OpcodeRow.patterns_agree {r q : OpcodeRow} {w : BitVec 8} (hr : r.holds w = true) (hq : q.holds w = true) :
    r.pattern &&& q.mask = q.pattern &&& r.mask := by
  rw [holds_iff] at hr hq
  rw [← hr, ← hq, BitVec.and_assoc, BitVec.and_assoc, BitVec.and_comm r.mask]

/-- A word belongs to at most one row (R82): any two rows differ in a bit that both masks keep. -/
theorem opcodeMap_patterns_differ :
    opcodeMap.Pairwise (fun r q => r.pattern &&& q.mask ≠ q.pattern &&& r.mask) := by
  decide

/-- The search for the first row of a word finds any row the word belongs to, as no row before it holds the word. -/
theorem find?_opcodeMap_eq_some_iff {w : BitVec 8} {row : OpcodeRow} :
    opcodeMap.find? (fun r => r.holds w) = some row ↔ row ∈ opcodeMap ∧ row.holds w = true := by
  constructor
  · exact fun h => ⟨List.mem_of_find?_eq_some h, List.find?_some (p := fun r => OpcodeRow.holds r w) h⟩
  · rintro ⟨hmem, hholds⟩
    obtain ⟨before, after, hsplit⟩ := List.append_of_mem hmem
    have hdiffer := hsplit ▸ opcodeMap_patterns_differ
    refine List.find?_eq_some_iff_append.mpr ⟨hholds, before, after, hsplit, fun r hr => ?_⟩
    have hne := (List.pairwise_append.mp hdiffer).2.2 r hr row List.mem_cons_self
    simpa using fun hearlier => hne (OpcodeRow.patterns_agree hearlier hholds)

/-- Decoding reads a command off any row the word belongs to (R82). -/
theorem decode_eq_some_iff {w : BitVec 8} {i : Instr} :
    decode w = some i ↔ ∃ row ∈ opcodeMap, row.holds w = true ∧ row.instr w = i := by
  simp only [decode, Option.map_eq_some_iff, find?_opcodeMap_eq_some_iff, and_assoc]

set_option maxRecDepth 20000 in
/-- The 28 legal words (R84), by decoding all 256. -/
theorem legalWords :
    (List.range 256).filter (fun n => (decode (BitVec.ofNat 8 n)).isSome) =
      [0x20, 0x30, 0x40, 0x41, 0x42, 0x43, 0x60, 0x64, 0x80, 0x90, 0xA0, 0xA8] ++ List.range' 0xC0 16 := by
  decide

/-- Settles O5: decoding by any row a word belongs to, with the seven rows written out. -/
theorem opcodeMapSelectsTheSevenCommands : Obligations.OpcodeMapSelectsTheSevenCommands := by
  refine ⟨fun w i => ?_, legalWords⟩
  rw [decode_eq_some_iff]
  simp only [opcodeMap, List.exists_mem_cons_iff, List.not_mem_nil, false_and, exists_false, or_false,
    OpcodeRow.holds_iff, flagS, flagL, flagX, flagM, flagC, eq_comm (b := i)]

/-! ### The encoder's formula (R95) -/

/-- The bits of OP lie above the flags', and the flags' apart from one another, so `|||` adds them. -/
theorem toNat_commandWord {op : Nat} (hop : op < 8) (S L X M C : Bool) :
    (commandWord op S L X M C).toNat =
      32 * op + (16 * S.toNat + 8 * L.toNat + 4 * X.toNat + 2 * M.toNat + C.toNat) := by
  have hsplit : commandWord op S L X M C = BitVec.ofNat 8 op <<< 5 ||| commandWord 0 S L X M C := by
    simp [commandWord, BitVec.or_assoc]
  have hopField : (BitVec.ofNat 8 op <<< 5).toNat = op <<< 5 := by
    simp only [BitVec.toNat_shiftLeft, BitVec.toNat_ofNat, Nat.shiftLeft_eq]
    omega
  have hflags : (commandWord 0 S L X M C).toNat =
      16 * S.toNat + 8 * L.toNat + 4 * X.toNat + 2 * M.toNat + C.toNat := by
    cases S <;> cases L <;> cases X <;> cases M <;> cases C <;> rfl
  have hlow : (commandWord 0 S L X M C).toNat < 2 ^ 5 := by
    have := S.toNat_le; have := L.toNat_le; have := X.toNat_le; have := M.toNat_le; have := C.toNat_le
    omega
  rw [hsplit, BitVec.toNat_or, hopField, ← Nat.shiftLeft_add_eq_or_of_lt hlow, hflags, Nat.shiftLeft_eq, Nat.mul_comm]

/-! ### Decoding the word of a command -/

/-- Every command's word belongs to its row and to no other, constructor by constructor. -/
theorem encodedWord : ∀ i, Laws.EncodedWord.Statement i
  | .parse S => Laws.EncodedWord.parse S
  | .encaddr M C => Laws.EncodedWord.encaddr M C
  | .bldctl => Laws.EncodedWord.bldctl
  | .bldctlc => Laws.EncodedWord.bldctlc
  | .fcs S => Laws.EncodedWord.fcs S
  | .asmfrm L => Laws.EncodedWord.asmfrm L
  | .mkfrm L X M C => Laws.EncodedWord.mkfrm L X M C

theorem decode_encode (i : Instr) : decode (encode i) = some i := by
  have hi : i ∈ (opcodeMap.filter (fun row => row.holds (encode i))).map (fun row => row.instr (encode i)) := by
    rw [encodedWord i]
    exact List.mem_singleton_self i
  obtain ⟨row, hrow, hinstr⟩ := List.mem_map.mp hi
  obtain ⟨hmem, hholds⟩ := List.mem_filter.mp hrow
  exact decode_eq_some_iff.mpr ⟨row, hmem, hholds, hinstr⟩

/-! ### The word of a decoded command -/

/-- A flag's field, where the flag is a bit of a word, is that word cut to the bit. -/
theorem ofNat_getLsbD_shiftLeft (w : BitVec 8) (k : Nat) :
    BitVec.ofNat 8 (w.getLsbD k).toNat <<< k = w &&& BitVec.twoPow 8 k := by
  rw [BitVec.and_twoPow]
  cases w.getLsbD k <;> simp [BitVec.twoPow]

/-- The flags a row takes from a word are all the bits outside its mask, and its command's word puts them back around
the row's pattern (R84, R95). -/
theorem encode_instr {row : OpcodeRow} (hrow : row ∈ opcodeMap) (w : BitVec 8) :
    encode (row.instr w) = row.pattern ||| (w &&& ~~~row.mask) := by
  have hjoin (a b : BitVec 8) : w &&& a ||| w &&& b = w &&& (a ||| b) := (BitVec.and_or_distrib_left ..).symm
  simp only [opcodeMap, List.mem_cons, List.not_mem_nil, or_false] at hrow
  rcases hrow with rfl | rfl | rfl | rfl | rfl | rfl | rfl <;>
    simp only [encode, commandWord, flagS, flagL, flagX, flagM, flagC, ofNat_getLsbD_shiftLeft] <;>
    simp [BitVec.or_assoc, hjoin, BitVec.twoPow]

theorem encode_of_decode {w : BitVec 8} {i : Instr} (h : decode w = some i) : encode i = w := by
  obtain ⟨row, hmem, hholds, rfl⟩ := decode_eq_some_iff.mp h
  calc encode (row.instr w)
      = row.pattern ||| (w &&& ~~~row.mask) := encode_instr hmem w
    _ = (w &&& row.mask) ||| (w &&& ~~~row.mask) := by rw [OpcodeRow.holds_iff.mp hholds]
    _ = w := by rw [← BitVec.and_or_distrib_left, BitVec.or_not_self, BitVec.and_allOnes]

/-- Settles O7: the formula is the sum of the word's fields, and each direction of the inverse is a lemma above. -/
theorem decodeAndEncodeAreInverse : Obligations.DecodeAndEncodeAreInverse := by
  refine ⟨fun i => ?_, fun i w _ => ⟨encode_of_decode, fun h => h ▸ decode_encode i⟩⟩
  cases i <;> simp [encode, toNat_commandWord, Nat.add_assoc]

end Sys2Proof
end

section
/-!
PROOFS. The parser accepts the grammar and nothing else, and what PARSE makes of it (40_callsign_parser.md R111 to R118).
-/

namespace Sys2Proof.Machine

/-! ### The text of an SSID -/

theorem parseSuffix_ssidText : ∀ n ≤ 15, parseSuffix (ssidText n) = some n := by decide

theorem eq_ssidText_of_parseSuffix {s : List Octet} {n : Nat} (h : parseSuffix s = some n) : s = ssidText n := by
  unfold parseSuffix at h
  split at h
  next d =>
    simp only [isDigit, Bool.and_eq_true, decide_eq_true_eq, BitVec.le_def, BitVec.toNat_ofNat,
      Option.ite_none_right_eq_some, Option.some.injEq] at h
    obtain ⟨hd, rfl⟩ := h
    have hn : d.toNat - 0x30 < 10 := by omega
    have hback : 0x30 + (d.toNat - 0x30) = d.toNat := by omega
    simp only [ssidText, if_pos hn, hback, BitVec.ofNat_toNat, BitVec.setWidth_eq]
  next t d =>
    simp only [BitVec.le_def, BitVec.toNat_ofNat, Option.ite_none_right_eq_some, Option.some.injEq] at h
    obtain ⟨⟨rfl, hd⟩, rfl⟩ := h
    have hn : ¬ 10 + d.toNat - 0x30 < 10 := by omega
    have hback : 0x30 + (10 + d.toNat - 0x30 - 10) = d.toNat := by omega
    simp only [ssidText, if_neg hn, hback, BitVec.ofNat_toNat, BitVec.setWidth_eq]
  next => simp at h

/-- The suffix of the grammar (R111): a number up to 15 in decimal, without a leading zero. -/
theorem parseSuffix_eq_some_iff {s : List Octet} {n : Nat} :
    parseSuffix s = some n ↔ n ≤ 15 ∧ s = ssidText n :=
  ⟨fun h => ⟨parseSuffix_le h, eq_ssidText_of_parseSuffix h⟩, fun ⟨hn, hs⟩ => hs ▸ parseSuffix_ssidText n hn⟩

/-- A number in decimal, as R118 (c) writes an SSID of any size. -/
def decimalText (n : Nat) : List Octet := (Nat.digits 10 n).reverse.map (fun d => BitVec.ofNat 8 (0x30 + d))

/-- The number a text of decimal digits stands for. -/
def decimalValue (s : List Octet) : Nat := Nat.ofDigits 10 (s.reverse.map (fun c : Octet => c.toNat - 0x30))

theorem decimalValue_decimalText (n : Nat) : decimalValue (decimalText n) = n := by
  have hdigits : (Nat.digits 10 n).map (fun d => (BitVec.ofNat 8 (0x30 + d)).toNat - 0x30) = Nat.digits 10 n := by
    refine (List.map_congr_left (g := id) fun d hd => ?_).trans (List.map_id _)
    have hlt : d < 10 := Nat.digits_lt_base (by decide) hd
    rw [BitVec.toNat_ofNat, id]
    omega
  simp only [decimalValue, decimalText, List.map_reverse, List.reverse_reverse, List.map_map, Function.comp_def,
    hdigits, Nat.ofDigits_digits]

theorem decimalValue_ssidText : ∀ n ≤ 15, decimalValue (ssidText n) = n := by decide

/-- An SSID above 15 has no text in the grammar, as its decimal digits stand for another number (R118 (c)). -/
theorem parseSuffix_decimalText {n : Nat} (h : 15 < n) : parseSuffix (decimalText n) = none := by
  rw [Option.eq_none_iff_forall_ne_some]
  intro m hm
  obtain ⟨hle, htext⟩ := parseSuffix_eq_some_iff.mp hm
  have : n = m := by rw [← decimalValue_decimalText n, htext, decimalValue_ssidText m hle]
  omega

/-! ### The split at the first hyphen -/

/-- The hyphen is no callsign character, so a callsign holds none (R112). -/
theorem IsCallsign.hyphen_notMem {call : List Octet} (h : IsCallsign call) : hyphen ∉ call :=
  fun hmem => absurd (h.2.2 hyphen hmem) (by decide)

/-- A text cut before its first hyphen is parsed as these two parts. -/
theorem parse_append {call rest : List Octet} (hcall : hyphen ∉ call)
    (hrest : rest = [] ∨ ∃ suffix, rest = hyphen :: suffix) : parse (call ++ rest) = parseParts call rest := by
  have hkeep : ∀ c ∈ call, (c != hyphen) = true := fun c hc => by
    simpa using fun heq : c = hyphen => hcall (heq ▸ hc)
  rw [parse, List.takeWhile_append_of_pos hkeep, List.dropWhile_append_of_pos hkeep]
  obtain rfl | ⟨suffix, rfl⟩ := hrest <;> simp

/-- Every text can be cut so. -/
theorem exists_split_at_hyphen (text : List Octet) : ∃ call rest, text = call ++ rest ∧ hyphen ∉ call ∧
    (rest = [] ∨ ∃ suffix, rest = hyphen :: suffix) := by
  by_cases h : hyphen ∈ text
  · obtain ⟨call, suffix, rfl, hcall⟩ := List.eq_append_cons_of_mem h
    exact ⟨call, _, rfl, hcall, .inr ⟨suffix, rfl⟩⟩
  · exact ⟨text, [], (List.append_nil text).symm, h, .inl rfl⟩

/-- The two checks of R112 on the callsign part are the callsign invariant. -/
theorem isCallsign_iff {call : List Octet} :
    IsCallsign call ↔ ¬ (call.length < 2 ∨ call.length > 6) ∧ call.all isCallCh = true := by
  simp only [IsCallsign, List.all_eq_true, isCallCh_iff, not_or, not_lt, and_assoc, gt_iff_lt]

/-- The callsign part decides first, whatever follows it (R112). -/
theorem parseParts_of_not_isCallsign {call rest : List Octet} (h : ¬ IsCallsign call) :
    parseParts call rest = none := by
  unfold parseParts
  split
  · rfl
  next hlen => exact if_neg fun hchars => h (isCallsign_iff.mpr ⟨hlen, hchars⟩)

/-- After a callsign the rest decides: nothing is SSID 0 (R113). -/
theorem parseParts_callsign_nil {call : List Octet} (h : IsCallsign call) : parseParts call [] = some ⟨call, 0⟩ := by
  obtain ⟨hlen, hchars⟩ := isCallsign_iff.mp h
  simp only [parseParts, if_neg hlen, if_pos hchars]

/-- And what follows the hyphen must be an SSID's text (R112). -/
theorem parseParts_callsign_cons {call : List Octet} (h : IsCallsign call) (c : Octet) (suffix : List Octet) :
    parseParts call (c :: suffix) = (parseSuffix suffix).map (fun n => ⟨call, n⟩) := by
  obtain ⟨hlen, hchars⟩ := isCallsign_iff.mp h
  simp only [parseParts, if_neg hlen, if_pos hchars]

/-! ### The grammar -/

theorem parse_callsign {call : List Octet} (h : IsCallsign call) : parse call = some ⟨call, 0⟩ := by
  have hsplit := parse_append h.hyphen_notMem (.inl rfl)
  rwa [List.append_nil, parseParts_callsign_nil h] at hsplit

theorem parse_callsign_suffix {call : List Octet} (h : IsCallsign call) (suffix : List Octet) :
    parse (call ++ [0x2D#8] ++ suffix) = (parseSuffix suffix).map (fun n => ⟨call, n⟩) := by
  rw [List.append_assoc, ← parseParts_callsign_cons h hyphen]
  exact parse_append h.hyphen_notMem (.inr ⟨suffix, rfl⟩)

theorem parse_callsign_ssid {call : List Octet} {n : Nat} (h : IsCallsign call) (hn : n ≤ 15) :
    parse (call ++ [0x2D#8] ++ ssidText n) = some ⟨call, n⟩ := by
  rw [parse_callsign_suffix h, parseSuffix_ssidText n hn, Option.map_some]

theorem parse_callsign_decimalText {call : List Octet} {n : Nat} (h : IsCallsign call) (hn : 15 < n) :
    parse (call ++ [0x2D#8] ++ decimalText n) = none := by
  rw [parse_callsign_suffix h, parseSuffix_decimalText hn, Option.map_none]

/-- A part before the first hyphen that is no callsign makes the whole identifier invalid (R118 (c)). -/
theorem parse_of_not_isCallsign {call rest : List Octet} (hhyphen : hyphen ∉ call)
    (hrest : rest = [] ∨ ∃ suffix, rest = hyphen :: suffix) (h : ¬ IsCallsign call) : parse (call ++ rest) = none := by
  rw [parse_append hhyphen hrest, parseParts_of_not_isCallsign h]

theorem parse_of_denotes {text call : List Octet} {n : Nat} (h : Denotes text call n) :
    parse text = some ⟨call, n⟩ := by
  obtain ⟨hcall, ⟨rfl, rfl⟩ | ⟨hn, rfl⟩⟩ := h
  · exact parse_callsign hcall
  · exact parse_callsign_ssid hcall hn

theorem denotes_of_parse {text call : List Octet} {n : Nat} (h : parse text = some ⟨call, n⟩) :
    Denotes text call n := by
  obtain ⟨part, rest, rfl, hhyphen, hrest⟩ := exists_split_at_hyphen text
  rw [parse_append hhyphen hrest] at h
  by_cases hpart : IsCallsign part
  · obtain rfl | ⟨suffix, rfl⟩ := hrest
    · obtain ⟨rfl, rfl⟩ : part = call ∧ 0 = n := by simpa [parseParts_callsign_nil hpart] using h
      exact ⟨hpart, .inl ⟨List.append_nil part, rfl⟩⟩
    · obtain ⟨hsuffix, rfl⟩ : parseSuffix suffix = some n ∧ part = call := by
        simpa [parseParts_callsign_cons hpart] using h
      obtain ⟨hn, rfl⟩ := parseSuffix_eq_some_iff.mp hsuffix
      exact ⟨hpart, .inr ⟨hn, by simp [hyphen]⟩⟩
  · simp [parseParts_of_not_isCallsign hpart] at h

/-- `Parse` gives a callsign and an SSID exactly where the grammar does (R111). -/
theorem parse_eq_some_iff {text call : List Octet} {n : Nat} :
    parse text = some ⟨call, n⟩ ↔ Denotes text call n :=
  ⟨denotes_of_parse, parse_of_denotes⟩

/-- `Parse` fails exactly outside the grammar (R114). -/
theorem parse_eq_none_iff {text : List Octet} : parse text = none ↔ ¬ ValidIdentifier text := by
  simp only [ValidIdentifier, ← parse_eq_some_iff, Option.eq_none_iff_forall_ne_some, not_exists]
  exact ⟨fun h call n => h ⟨call, n⟩, fun h id => h id.call id.ssid⟩

/-- Settles O15: the split at the first hyphen is the only one that can be in the grammar, and of what follows it only
the text of an SSID is a suffix. -/
theorem parseAcceptsExactlyTheGrammar : Obligations.ParseAcceptsExactlyTheGrammar := by
  refine ⟨fun _ _ _ => parse_eq_some_iff, fun _ => parse_eq_none_iff, fun call hcall => ⟨parse_callsign hcall, ?_⟩⟩
  simpa [ssidText] using parse_callsign_ssid hcall (Nat.zero_le 15)

/-! ### PARSE -/

/-- The registers PARSE leaves for an identifier that parses, read back (R116). -/
theorem setStation_reads {text : List Octet} {id : StationId} (h : parse text = some id) (s : State) :
    (s.setStation id.call.length (pad6 id.call) id.ssid).plen.toNat = id.call.length ∧
    (s.setStation id.call.length (pad6 id.call) id.ssid).pcall.readRange 0 6 = pad6 id.call ∧
    (s.setStation id.call.length (pad6 id.call) id.ssid).pssid.toNat = id.ssid := by
  obtain ⟨_, hlen, _, hssid⟩ := parse_some h
  refine ⟨?_, ?_, ?_⟩
  · rw [State.setStation_plen, BitVec.toNat_ofNat]
    omega
  · rw [State.setStation_pcall, ← length_pad6 hlen, Memory.readRange_writeRange]
  · rw [State.setStation_pssid, BitVec.toNat_ofNat]
    omega

/-- A PARSE that ends OK has stored the StationId its identifier parses to. -/
theorem exec_parse_ok {S : Bool} {s t : State} (h : exec (.parse S) s = .next t) (hok : t.err = 0#2) :
    ∃ id, parse (identifier S s) = some id ∧
      t = (s.setStation id.call.length (pad6 id.call) id.ssid).setErr .ok := by
  change execParse S s = .next t at h
  cases hp : parse (identifier S s) with
  | some id => exact ⟨id, rfl, (Host.Outcome.next.inj ((execParse_some hp).symm.trans h)).symm⟩
  | none =>
    obtain rfl := Host.Outcome.next.inj ((execParse_none hp).symm.trans h)
    exact absurd hok (by simp)

theorem Memory.read_of_readRange_eq {m : Memory} {n : Nat} {p : List Octet} (h : m.readRange 0 n = p) {i : Nat}
    (hi : i < p.length) : m.read i = p[i] := by
  subst h
  rw [Memory.getElem_readRange, Nat.zero_add]

theorem getElem_pad6 {call : List Octet} {i : Nat} (hi : i < (pad6 call).length) :
    (pad6 call)[i] = if h : i < call.length then call[i] else 0x20#8 := by
  simp only [pad6, List.getElem_append, List.getElem_replicate]

/-- R118 (d): PLEN, PCALL and PSSID after a PARSE that ends OK. -/
theorem stationId_after_parse {S : Bool} {s t : State} (h : exec (.parse S) s = .next t) (hok : t.err = 0#2) :
    2 ≤ t.plen.toNat ∧ t.plen.toNat ≤ 6 ∧ (∀ i, i < t.plen.toNat → IsCallChar (t.pcall.read i)) ∧
    (∀ i, t.plen.toNat ≤ i → i < 6 → t.pcall.read i = 0x20#8) ∧ t.pssid.toNat ≤ 15 := by
  obtain ⟨id, hparse, rfl⟩ := exec_parse_ok h hok
  obtain ⟨hmin, hmax, hchars, hssid⟩ := parse_some hparse
  obtain ⟨hplen, hpcall, hpssid⟩ := setStation_reads hparse s
  have hread : ∀ i < 6, (s.setStation id.call.length (pad6 id.call) id.ssid).pcall.read i =
      if h : i < id.call.length then id.call[i] else 0x20#8 := fun i hi => by
    rw [Memory.read_of_readRange_eq hpcall (by rwa [length_pad6 hmax]), getElem_pad6]
  simp only [State.setErr_plen, State.setErr_pcall, State.setErr_pssid, hplen, hpssid]
  refine ⟨hmin, hmax, fun i hi => ?_, fun i hi hi6 => ?_, hssid⟩
  · rw [hread i (by omega), dif_pos hi, ← isCallCh_iff]
    exact hchars _ (List.getElem_mem hi)
  · rw [hread i hi6, dif_neg (by omega)]

/-- Settles O16: the document's four properties, each a lemma above. -/
theorem parserLaws : Obligations.ParserLaws := by
  refine ⟨fun _ => parse_callsign, fun _ _ => parse_callsign_ssid, fun call rest hhyphen hrest hbad => ?_,
    fun _ _ => parse_callsign_decimalText, fun _ _ _ => stationId_after_parse⟩
  refine parse_of_not_isCallsign hhyphen hrest fun ⟨hmin, hmax, hchars⟩ => ?_
  obtain hshort | hlong | ⟨c, hc, hchar⟩ := hbad
  · omega
  · omega
  · exact hchar (hchars c hc)

theorem pad6_eq_spacePadded (call : List Octet) : pad6 call = spacePadded call := rfl

/-- PARSE of an identifier in the grammar: what it stores, and that it changes nothing else (R116). -/
theorem exec_parse_of_denotes {S : Bool} {s : State} {call : List Octet} {n : Nat}
    (h : Denotes (identifier S s) call n) :
    ∃ t, exec (.parse S) s = .next t ∧ t = { s with plen := t.plen, pcall := t.pcall, pssid := t.pssid, err := 0#2 } ∧
      t.plen.toNat = call.length ∧ t.pcall.readRange 0 6 = spacePadded call ∧ t.pssid.toNat = n ∧
      ∀ a, 6 ≤ a → t.pcall.read a = s.pcall.read a := by
  have hparse := parse_of_denotes h
  obtain ⟨hplen, hpcall, hpssid⟩ := setStation_reads hparse s
  refine ⟨_, execParse_some hparse, rfl, hplen, hpcall.trans (pad6_eq_spacePadded call), hpssid, fun a ha => ?_⟩
  exact Memory.read_writeRange_of_ge _ _ (by rwa [length_pad6 h.1.2.1])

/-- PARSE of an identifier outside the grammar (R117). -/
theorem exec_parse_of_not_valid {S : Bool} {s : State} (h : ¬ ValidIdentifier (identifier S s)) :
    exec (.parse S) s = .next { s with err := 1#2 } :=
  execParse_none (parse_eq_none_iff.mpr h)

/-- Settles O19: PARSE inside the grammar and outside it, and R116's example as an identifier inside. -/
theorem parseStoresTheSelectedStationId : Obligations.ParseStoresTheSelectedStationId := by
  refine ⟨fun S => ?_, ?_, ?_, fun s hs => ?_⟩
  · cases S
    · exact decode_encode (.parse false)
    · exact decode_encode (.parse true)
  · rintro S s _ call n rfl h
    exact exec_parse_of_denotes h
  · rintro S s _ rfl h
    exact exec_parse_of_not_valid h
  · have hid : identifier false s = ascii ['N', 'J', '7', 'P', '-', '1', '5'] := hs
    have hparse : parse (identifier false s) = some ⟨ascii ['N', 'J', '7', 'P'], 15⟩ := by rw [hid]; decide
    obtain ⟨t, hexec, hframe, hplen, hpcall, hpssid, _⟩ := exec_parse_of_denotes (denotes_of_parse hparse)
    exact ⟨t, hexec, BitVec.eq_of_toNat_eq hplen, hpcall, BitVec.eq_of_toNat_eq hpssid, by rw [hframe]⟩

/-! ### The commands that take both identifiers -/

/-- Either identifier outside the grammar leaves no address field (41_address_encoder.md R136). -/
theorem encodeAddr_of_not_valid {dst src : List Octet} (C M : Bool)
    (h : ¬ ValidIdentifier dst ∨ ¬ ValidIdentifier src) : encodeAddr dst src C M = none :=
  encodeAddr_eq_none.mpr (h.imp parse_eq_none_iff.mpr parse_eq_none_iff.mpr)

/-- Settles O20: outside the grammar nothing parses, so each command raises the error, and MKFRM clears FRMLEN before. -/
theorem failedCommandsLeaveTheirResults : Obligations.FailedCommandsLeaveTheirResults :=
  ⟨fun _ _ => exec_parse_of_not_valid,
    fun M C _ h => execEncaddr_none (encodeAddr_of_not_valid C M h),
    fun _ _ M C _ h => execMkfrm_none (encodeAddr_of_not_valid C M h)⟩

end Sys2Proof.Machine
end

section
/-!
PROOFS. The encoded address field octet by octet, and what ENCADDR makes of it (41_address_encoder.md R132 to R140).
-/

namespace Sys2Proof.Machine

/-! ### The octets of an address field -/

/-- An SSID octet after steps 6 to 8 of R132, with `B` its command/response bit. -/
def ssidOctet (B : Bool) (u : Octet) : Octet :=
  if B then (u <<< (1 : Nat) ||| 0x60#8) ||| 0x80#8 else (u <<< (1 : Nat) ||| 0x60#8) &&& 0x7F#8

/-- Step 9 of R132 on the one octet it changes. -/
def extensionOctet (M : Bool) (v : Octet) : Octet := if M then v &&& 0xFE#8 else v ||| 0x01#8

/-- What steps 6 to 9 of R132 make of the octet `u` at index `k`. -/
def packedOctet (C M : Bool) (k : Nat) (u : Octet) : Octet :=
  if k = 6 then ssidOctet C u
  else if k = 13 then extensionOctet M (ssidOctet (!C) u)
  else u <<< (1 : Nat)

theorem packedOctet_of_ne {k : Nat} (h6 : k ≠ 6) (h13 : k ≠ 13) (C M : Bool) :
    packedOctet C M k = fun (u : Octet) => u <<< (1 : Nat) := by
  funext u
  rw [packedOctet, if_neg h6, if_neg h13]

/-- Steps 6 to 9 of R132 work on each octet by itself. -/
theorem getElem?_packAddress (d s : StationId) (C M : Bool) (k : Nat) :
    (packAddress d s C M)[k]? = (addressOctets d s)[k]?.map (packedOctet C M k) := by
  by_cases h6 : k = 6
  · subst h6
    exact getElem?_six_packAddress d s C M
  by_cases h13 : k = 13
  · subst h13
    cases C <;> cases M <;>
      simp [packAddress, setExtension, setCommandBits, setReserved, shiftOctets, Function.comp_def] <;> rfl
  · rw [packedOctet_of_ne h6 h13]
    cases C <;> cases M <;>
      simp [packAddress, setExtension, setCommandBits, setReserved, shiftOctets, Ne.symm h6, Ne.symm h13]

theorem encodeAddr_getElem {dst src a : List Octet} {C M : Bool} (h : encodeAddr dst src C M = some a) {k : Nat}
    (hk : k < a.length) : ∃ u, a[k] = packedOctet C M k u := by
  obtain ⟨_, d, s, _, _, rfl⟩ := encodeAddr_some h
  have hget := getElem?_packAddress d s C M k
  rw [List.getElem?_eq_getElem hk] at hget
  obtain ⟨u, _, hu⟩ := Option.map_eq_some_iff.mp hget.symm
  exact ⟨u, hu.symm⟩

/-! ### Its fixed bits -/

/-- The reserved bits (R137): step 7 sets them whatever the shift left there. -/
theorem ssidOctet_reserved (B : Bool) (u : Octet) : (ssidOctet B u).extractLsb' 5 2 = 3#2 := by
  have hset (x : BitVec 2) : x ||| 3#2 = 3#2 := BitVec.or_allOnes
  cases B <;> simp [ssidOctet, BitVec.extractLsb'_or, BitVec.extractLsb'_and, hset]

theorem ssidOctet_commandBit (B : Bool) (u : Octet) : (ssidOctet B u).getLsbD 7 = B := by
  cases B <;> simp [ssidOctet]

theorem ssidOctet_lowBit (B : Bool) (u : Octet) : (ssidOctet B u).getLsbD 0 = false := by
  cases B <;> simp [ssidOctet]

theorem extensionOctet_reserved (M : Bool) (v : Octet) :
    (extensionOctet M v).extractLsb' 5 2 = v.extractLsb' 5 2 := by
  have hkeep (x : BitVec 2) : x &&& 3#2 = x := BitVec.and_allOnes
  cases M <;> simp [extensionOctet, BitVec.extractLsb'_or, BitVec.extractLsb'_and, hkeep]

theorem extensionOctet_commandBit (M : Bool) (v : Octet) : (extensionOctet M v).getLsbD 7 = v.getLsbD 7 := by
  cases M <;> simp [extensionOctet]

theorem extensionOctet_lowBit (M : Bool) (v : Octet) : (extensionOctet M v).getLsbD 0 = !M := by
  cases M <;> simp [extensionOctet]

/-- The shift of step 6 clears the low bit of every octet, and only octet 13 gets it back (R139, R140). -/
theorem packedOctet_lowBit (C M : Bool) {k : Nat} (hk : k ≠ 13) (u : Octet) :
    (packedOctet C M k u).getLsbD 0 = false := by
  by_cases h6 : k = 6
  · rw [packedOctet, if_pos h6, ssidOctet_lowBit]
  · simp [packedOctet_of_ne h6 hk]

/-! ### ADDR after a command that encodes it -/

/-- ENCADDR of two identifiers that encode: what it stores, and that it changes nothing else (R134). -/
theorem exec_encaddr_of_encodes {M C : Bool} {s : State} {a : List Octet}
    (h : encodeAddr (destination s) (source s) C M = some a) :
    ∃ t, exec (.encaddr M C) s = .next t ∧ t = { s with addr := t.addr, err := 0#2 } ∧
      t.addr.readRange 0 14 = a ∧ ∀ k, 14 ≤ k → t.addr.read k = s.addr.read k := by
  have hlen := (encodeAddr_some h).1
  refine ⟨_, execEncaddr_some h, rfl, ?_, fun k hk => ?_⟩
  · exact hlen ▸ Memory.readRange_writeRange s.addr a
  · exact Memory.read_writeRange_of_ge s.addr a (by rwa [hlen])

/-- What an ENCADDR or MKFRM that ends OK has written to ADDR (R134, 44_frame_assembler.md R194). -/
theorem addr_of_exec_ok {i : Instr} {M C : Bool} {s t : State} (hi : i = .encaddr M C ∨ ∃ L X, i = .mkfrm L X M C)
    (h : exec i s = .next t) (hok : t.err = 0#2) :
    ∃ a, encodeAddr (destination s) (source s) C M = some a ∧ t.addr = s.addr.writeRange 0 a := by
  cases ha : encodeAddr (destination s) (source s) C M with
  | some a =>
    refine ⟨a, rfl, ?_⟩
    obtain rfl | ⟨L, X, rfl⟩ := hi
    · obtain rfl := Host.Outcome.next.inj ((execEncaddr_some ha).symm.trans h)
      rfl
    · obtain rfl := Host.Outcome.next.inj ((execMkfrm_some ha).symm.trans h)
      rfl
  | none =>
    obtain rfl | ⟨L, X, rfl⟩ := hi
    · obtain rfl := Host.Outcome.next.inj ((execEncaddr_none ha).symm.trans h)
      exact absurd hok (by simp)
    · obtain rfl := Host.Outcome.next.inj ((execMkfrm_none ha).symm.trans h)
      exact absurd hok (by simp)

/-- Every octet of ADDR is then a packed one. -/
theorem addr_read_of_exec_ok {i : Instr} {M C : Bool} {s t : State}
    (hi : i = .encaddr M C ∨ ∃ L X, i = .mkfrm L X M C) (h : exec i s = .next t) (hok : t.err = 0#2) {k : Nat}
    (hk : k < 14) : ∃ u, t.addr.read k = packedOctet C M k u := by
  obtain ⟨a, ha, haddr⟩ := addr_of_exec_ok hi h hok
  have hka : k < a.length := by rwa [(encodeAddr_some ha).1]
  rw [haddr, Memory.read_writeRange_of_lt s.addr a hka]
  exact encodeAddr_getElem ha hka

/-! ### The obligations -/

theorem encode_encaddr (M C : Bool) :
    encode (.encaddr M C) = BitVec.ofNat 8 (0x40 + 2 * M.toNat + C.toNat) := by
  cases M <;> cases C <;> rfl

/-- Settles O21: ENCADDR where the identifiers encode and where they do not, and R134's example as two that do. -/
theorem encaddrWritesTheAddressField : Obligations.EncaddrWritesTheAddressField := by
  refine ⟨fun M C => encode_encaddr M C ▸ decode_encode _, fun _ _ _ _ => exec_encaddr_of_encodes,
    fun _ _ _ => execEncaddr_none, fun s hdst hsrc => ?_⟩
  have hencodes : encodeAddr (destination s) (source s) true false = some
      ([0x9C#8, 0x94#8, 0x6E#8, 0xA0#8, 0x40#8, 0x40#8, 0xE0#8] ++
        [0x9C#8, 0x6E#8, 0x98#8, 0x8A#8, 0x9A#8, 0x40#8, 0x61#8]) := by
    rw [destination, source, hdst, hsrc]
    decide
  obtain ⟨t, hexec, hframe, haddr, _⟩ := exec_encaddr_of_encodes hencodes
  exact ⟨t, hexec, by rw [hframe], haddr⟩

/-- Settles O23: each octet of ADDR is a packed one, whose fixed bits do not depend on what was packed. -/
theorem addressFieldBitInvariants : Obligations.AddressFieldBitInvariants := by
  intro i M C s t hi h hok
  obtain ⟨u, h6⟩ : ∃ u, t.addr.read 6 = ssidOctet C u := addr_read_of_exec_ok hi h hok (by decide)
  obtain ⟨v, h13⟩ : ∃ v, t.addr.read 13 = extensionOctet M (ssidOctet (!C) v) :=
    addr_read_of_exec_ok hi h hok (by decide)
  have hlow : ∀ k < 13, (t.addr.read k).getLsbD 0 = false := fun k hk => by
    obtain ⟨w, hw⟩ := addr_read_of_exec_ok hi h hok (Nat.lt_succ_of_lt hk)
    rw [hw, packedOctet_lowBit C M (Nat.ne_of_lt hk)]
  have hC : (t.addr.read 6).getLsbD 7 = C := by rw [h6, ssidOctet_commandBit]
  have hnotC : (t.addr.read 13).getLsbD 7 = !C := by rw [h13, extensionOctet_commandBit, ssidOctet_commandBit]
  refine ⟨?_, ?_, hC, hnotC, ?_, hlow, ?_⟩
  · rw [h6, ssidOctet_reserved]
  · rw [h13, extensionOctet_reserved, ssidOctet_reserved]
  · rw [hC, hnotC, Bool.xor_not_self]
  · rw [h13, extensionOctet_lowBit]

end Sys2Proof.Machine
end

section
/-!
PROOFS. The control octet: the arithmetic of its three fields, and what BLDCTL and BLDCTLC do (42_control_field.md R151
to R154).
-/

namespace Sys2Proof.Machine

/-! ### The octet as the sum of its fields -/

theorem inRange_iff {x : Int} : inRange x = true ↔ 0 ≤ x ∧ x < 8 := by
  simp [inRange]

/-- What a sequence number puts into its field: itself, or 0 when it is out of range (R154). -/
def seqNumber (x : Int) : Nat := if inRange x then x.toNat else 0

theorem seqNumber_lt (x : Int) : seqNumber x < 8 := by
  unfold seqNumber
  split
  next hx =>
    have := inRange_iff.mp hx
    omega
  next => decide

theorem coe_seqNumber (x : Int) : (seqNumber x : Int) = if 0 ≤ x ∧ x < 8 then x else 0 := by
  simp only [seqNumber, inRange_iff]
  split
  next hx => exact Int.toNat_of_nonneg hx.1
  next => rfl

/-- Setting a sequence number's field where the number is in range is setting it to what the number puts there. -/
theorem or_seqField (r : Octet) (x : Int) (k : Nat) :
    (if inRange x then r ||| seqField x k else r) = r ||| BitVec.ofNat 8 (seqNumber x) <<< k := by
  cases hx : inRange x with
  | true => simp [seqField, seqNumber, hx]
  | false => simp [seqNumber, hx]

theorem ctlCombined_eq_or (nr ns : Int) (pf : Bool) :
    ctlCombined nr ns pf =
      BitVec.ofNat 8 (seqNumber nr) <<< 5 ||| BitVec.ofNat 8 pf.toNat <<< 4 |||
        BitVec.ofNat 8 (seqNumber ns) <<< 1 := by
  simp only [ctlCombined, or_seqField]
  cases pf <;> simp

/-- A field that ends within the octet loses no bit. -/
theorem toNat_ofNat_shiftLeft {n k : Nat} (h : n * 2 ^ k < 2 ^ 8) : (BitVec.ofNat 8 n <<< k).toNat = n <<< k := by
  have hn : n < 2 ^ 8 := Nat.lt_of_le_of_lt (Nat.le_mul_of_pos_right n (Nat.two_pow_pos k)) h
  rw [BitVec.toNat_shiftLeft, BitVec.toNat_ofNat, Nat.mod_eq_of_lt hn, Nat.shiftLeft_eq, Nat.mod_eq_of_lt h]

/-- The fields share no bit, so `|||` adds them. -/
theorem toNat_ctlCombined (nr ns : Int) (pf : Bool) :
    (ctlCombined nr ns pf).toNat = 32 * seqNumber nr + 16 * pf.toNat + 2 * seqNumber ns := by
  have hnr := seqNumber_lt nr
  have hns := seqNumber_lt ns
  have hpf := pf.toNat_le
  have hlow : seqNumber ns <<< 1 < 2 ^ 4 := by rw [Nat.shiftLeft_eq]; omega
  have hmid : pf.toNat <<< 4 + seqNumber ns <<< 1 < 2 ^ 5 := by simp only [Nat.shiftLeft_eq]; omega
  calc (ctlCombined nr ns pf).toNat
      = seqNumber nr <<< 5 ||| (pf.toNat <<< 4 ||| seqNumber ns <<< 1) := by
        rw [ctlCombined_eq_or, BitVec.or_assoc, BitVec.toNat_or, BitVec.toNat_or, toNat_ofNat_shiftLeft (by omega),
          toNat_ofNat_shiftLeft (by omega), toNat_ofNat_shiftLeft (by omega)]
    _ = seqNumber nr <<< 5 + (pf.toNat <<< 4 + seqNumber ns <<< 1) := by
        rw [← Nat.shiftLeft_add_eq_or_of_lt hlow, ← Nat.shiftLeft_add_eq_or_of_lt hmid]
    _ = 32 * seqNumber nr + 16 * pf.toNat + 2 * seqNumber ns := by
        simp only [Nat.shiftLeft_eq]
        omega

/-- The combined octet in closed form (R154). -/
theorem ctlCombined_eq (nr ns : Int) (pf : Bool) :
    ctlCombined nr ns pf = BitVec.ofInt 8 ((if 0 ≤ nr ∧ nr < 8 then 32 * nr else 0) + 16 * pf.toNat +
      (if 0 ≤ ns ∧ ns < 8 then 2 * ns else 0)) := by
  have hsum := congrArg (BitVec.ofNat 8) (toNat_ctlCombined nr ns pf)
  rw [BitVec.ofNat_toNat, BitVec.setWidth_eq] at hsum
  rw [hsum, ← BitVec.ofInt_natCast]
  push_cast [coe_seqNumber]
  simp only [mul_ite, mul_zero]

/-! ### The literal construction in terms of the combined one -/

/-- A valid send number replaces the whole octet (R152, 90_conflicts.md C1). -/
theorem ctlLiteral_of_inRange (nr : Int) {ns : Int} (pf : Bool) (hns : inRange ns = true) :
    ctlLiteral nr ns pf = ctlCombined 0 ns false := by
  simp [ctlLiteral, ctlCombined, seqField, hns]

/-- Bit 4, which a false PF clears, lies below the receive number's field. -/
theorem shiftLeft_five_and_0xEF (x : Octet) : x <<< 5 &&& 0xEF#8 = x <<< 5 := by
  have hmask : 0xEF#8 &&& BitVec.allOnes 8 <<< 5 = BitVec.allOnes 8 <<< 5 := by decide
  rw [← BitVec.allOnes_shiftLeft_and_shiftLeft, BitVec.and_comm, ← BitVec.and_assoc, hmask]

/-- Without a valid send number the literal octet is the combined one (R152, R154). -/
theorem ctlLiteral_of_not_inRange (nr : Int) {ns : Int} (pf : Bool) (hns : inRange ns = false) :
    ctlLiteral nr ns pf = ctlCombined nr ns pf := by
  simp only [ctlLiteral, ctlCombined, or_seqField, hns]
  cases pf <;> simp [shiftLeft_five_and_0xEF]

/-! ### The commands -/

theorem toNat_pollFinal (s : State) : (pollFinal s).toNat = s.pf.toNat := by
  obtain hpf | hpf := BitVec.eq_zero_or_eq_one s.pf <;> simp [pollFinal, hpf]

theorem exec_bldctl (s : State) :
    exec .bldctl s = .next { s with ctrl := ctlLiteral s.nr.toInt s.ns.toInt (pollFinal s), err := 0#2 } := rfl

theorem exec_bldctlc (s : State) :
    exec .bldctlc s = .next { s with ctrl := ctlCombined s.nr.toInt s.ns.toInt (pollFinal s), err := 0#2 } := rfl

/-- Settles O27: the literal octet is the combined one, of the send number alone or of all three fields; the worked
examples are one of each. -/
theorem bldctlWritesTheLiteralOctet : Obligations.BldctlWritesTheLiteralOctet := by
  have hvalid (s : State) (hns : 0 ≤ s.ns.toInt ∧ s.ns.toInt < 8) :
      exec .bldctl s = .next { s with ctrl := BitVec.ofInt 8 (2 * s.ns.toInt), err := 0#2 } := by
    rw [exec_bldctl, ctlLiteral_of_inRange _ _ (inRange_iff.mpr hns), ctlCombined_eq]
    simp [hns]
  have hinvalid (s : State) (hns : ¬ (0 ≤ s.ns.toInt ∧ s.ns.toInt < 8)) :
      exec .bldctl s = .next { s with
        ctrl := BitVec.ofInt 8 ((if 0 ≤ s.nr.toInt ∧ s.nr.toInt < 8 then 32 * s.nr.toInt else 0) + 16 * s.pf.toNat)
        err := 0#2 } := by
    have hout : inRange s.ns.toInt = false := Bool.eq_false_iff.mpr (hns ∘ inRange_iff.mp)
    rw [exec_bldctl, ctlLiteral_of_not_inRange _ _ hout, ctlCombined_eq, toNat_pollFinal, if_neg hns, Int.add_zero]
  refine ⟨decode_encode .bldctl, hvalid, hinvalid, fun s _ hns _ => ?_, fun s hnr hns hpf => ?_⟩
  · rw [hvalid s (by omega), hns]
    rfl
  · rw [hinvalid s (by omega), hnr, hpf]
    rfl

/-- Settles O28: the closed form of the combined octet, and the worked examples as values of it. -/
theorem bldctlcWritesTheCombinedOctet : Obligations.BldctlcWritesTheCombinedOctet := by
  have hcombined (s : State) :
      exec .bldctlc s = .next { s with
        ctrl := BitVec.ofInt 8 ((if 0 ≤ s.nr.toInt ∧ s.nr.toInt < 8 then 32 * s.nr.toInt else 0) + 16 * s.pf.toNat +
          (if 0 ≤ s.ns.toInt ∧ s.ns.toInt < 8 then 2 * s.ns.toInt else 0))
        err := 0#2 } := by
    rw [exec_bldctlc, ctlCombined_eq, toNat_pollFinal]
  refine ⟨decode_encode .bldctlc, hcombined, fun s hnr hns hpf => ?_, fun s hnr hns hpf => ?_⟩
  · rw [hcombined, hnr, hns, hpf]
    rfl
  · rw [hcombined, hnr, hns, hpf]
    rfl

end Sys2Proof.Machine
end

section
/-!
PROOFS. The frame assembler: the octets of an assembled frame, how FRAME holds it, and what ASMFRM and MKFRM do
(44_frame_assembler.md R188 to R196).
-/

namespace Sys2Proof.Machine

/-! ### The octets of a frame -/

/-- The high and the low octet of a word are its quotient and remainder by 256 (43_checksum.md R172). -/
theorem highFirst_eq (c : Word16) :
    highFirst c = [BitVec.ofNat 8 (c.toNat / 256), BitVec.ofNat 8 (c.toNat % 256)] := by
  have hhigh : c.extractLsb' 8 8 = BitVec.ofNat 8 (c.toNat / 256) :=
    BitVec.eq_of_toNat_eq (by simp [Nat.shiftRight_eq_div_pow])
  have hlow : c.extractLsb' 0 8 = BitVec.ofNat 8 (c.toNat % 256) := BitVec.eq_of_toNat_eq (by simp)
  rw [highFirst, hhigh, hlow]

/-- The model's framing is the frame of 30_encoding.md R91. -/
theorem frameAround_eq_frameOctets (L : Bool) (body : List Octet) : frameAround L body = frameOctets L body := by
  rw [frameAround, fcsOctets, highFirst_eq]
  rfl

theorem asmFrame_fst (addr : List Octet) (ctrl pid : Octet) (pay : List Octet) (L : Bool) :
    (asmFrame addr ctrl pid pay L).1 = frameOctets L (bodyOf addr ctrl pid pay) :=
  frameAround_eq_frameOctets L _

/-! ### FRAME after a frame is stored -/

/-- A frame that fits FRAME stands there whole, FRMLEN is its length, and FRAME beyond it stays (R190, R192). -/
theorem storeFrame_holds {r : List Octet × Word16} {f : List Octet} (hf : r.1 = f)
    (hfits : r.1.length ≤ Config.frmMax) (s : State) :
    (s.storeFrame r).frmlen.toNat = f.length ∧
    (s.storeFrame r).frame.readRange 0 (s.storeFrame r).frmlen.toNat = f ∧
    ∀ a, (s.storeFrame r).frmlen.toNat ≤ a → (s.storeFrame r).frame.read a = s.frame.read a := by
  subst hf
  have hlen : (s.storeFrame r).frmlen.toNat = r.1.length := toNat_frmlen hfits
  rw [hlen]
  exact ⟨rfl, Memory.readRange_writeRange s.frame r.1, fun _ => Memory.read_writeRange_of_ge s.frame r.1⟩

/-! ### The commands' words (R95) -/

theorem encode_asmfrm (L : Bool) : encode (.asmfrm L) = if L then 0b10101000#8 else 0b10100000#8 := by
  cases L <;> rfl

theorem encode_mkfrm (L X M C : Bool) : encode (.mkfrm L X M C) =
    BitVec.ofNat 8 (0xC0 + 8 * L.toNat + 4 * X.toNat + 2 * M.toNat + C.toNat) := by
  have hsum := congrArg (BitVec.ofNat 8) (toNat_commandWord (op := 0b110) (by decide) false L X M C)
  rw [BitVec.ofNat_toNat, BitVec.setWidth_eq] at hsum
  rw [encode, hsum]
  congr 1
  simp only [Bool.toNat_false]
  omega

/-! ### The obligations -/

/-- Settles O37: ASMFRM stores the frame of the registers' own body, and nothing else but FCSR and STATUS.ERR. -/
theorem asmfrmWritesTheFrame : Obligations.AsmfrmWritesTheFrame := by
  refine ⟨fun L => encode_asmfrm L ▸ decode_encode _, ?_⟩
  rintro L s _ rfl
  have hfits := length_asmFrame_le s.ctrl s.pid L (length_addressField s) (length_payloadOctets_le s)
  exact ⟨_, rfl, rfl, storeFrame_holds (asmFrame_fst ..) hfits s⟩

/-- Settles O39: MKFRM stores the frame around the address field it has encoded and the control octet X selects, with
both of these in ADDR and CTRL; where an identifier does not encode, only FRMLEN and STATUS.ERR change. -/
theorem mkfrmBuildsTheWholeFrame : Obligations.MkfrmBuildsTheWholeFrame := by
  refine ⟨fun L X M C => encode_mkfrm L X M C ▸ decode_encode _, ?_, fun _ _ _ _ _ => execMkfrm_none⟩
  rintro L X M C s r _ _ hr rfl rfl
  have hlen := (encodeAddr_some hr).1
  have hfits := length_asmFrame_le (controlOctet X s) s.pid L hlen (length_payloadOctets_le s)
  refine ⟨_, execMkfrm_some hr, rfl, ?_, fun a ha => ?_,
    storeFrame_holds (asmFrame_fst ..) hfits ((s.setAddr r).setCtrl (controlOctet X s))⟩
  · exact hlen ▸ Memory.readRange_writeRange s.addr r
  · exact Memory.read_writeRange_of_ge s.addr r (by rwa [hlen])

end Sys2Proof.Machine
end

section
/-!
PROOFS. What every command leaves in STATUS, and that a host access leaves it (60_exceptions.md R211, R212).
-/

namespace Sys2Proof.Machine

/-! ### One host action -/

theorem step_of_pending {s : State} {a : HostAction} {rest : List HostAction} (h : s.pending = a :: rest) :
    step s = perform a { s with pending := rest } := by
  simp only [step, hostStep, h]

theorem runCommand_of_decode_some {word : Nat} {i : Instr} (hw : word < 2 ^ 8)
    (h : decode (BitVec.ofNat 8 word) = some i) (s : State) : runCommand word s = exec i s := by
  simp only [runCommand, if_pos hw, h]

theorem runCommand_of_decode_none {word : Nat} (hw : word < 2 ^ 8)
    (h : decode (BitVec.ofNat 8 word) = none) (s : State) :
    runCommand word s = .next (s.setErr .illegalCommand) := by
  simp only [runCommand, if_pos hw, h, raise_eq]

/-! ### The outcome of a command -/

@[simp] theorem State.setErr_status (e : Err) (s : State) : (s.setErr e).status = (errCode e).setWidth 8 := rfl

/-- An address field fails to encode exactly when an identifier is outside the grammar (41_address_encoder.md R136). -/
theorem encodeAddr_eq_none_iff_not_valid {dst src : List Octet} {C M : Bool} :
    encodeAddr dst src C M = none ↔ ¬ ValidIdentifier dst ∨ ¬ ValidIdentifier src :=
  encodeAddr_eq_none.trans (or_congr parse_eq_none_iff parse_eq_none_iff)

theorem exec_parse_status (S : Bool) (s : State) :
    ∃ t, exec (.parse S) s = .next t ∧ (ValidIdentifier (identifier S s) → t.status = 0#8) ∧
      (¬ ValidIdentifier (identifier S s) → t.status = 1#8) := by
  by_cases hvalid : ValidIdentifier (identifier S s)
  · obtain ⟨call, n, hdenotes⟩ := hvalid
    exact ⟨_, execParse_some (parse_of_denotes hdenotes), fun _ => rfl, absurd ⟨call, n, hdenotes⟩⟩
  · exact ⟨_, exec_parse_of_not_valid hvalid, (absurd · hvalid), fun _ => rfl⟩

/-- A command whose outcome is that of encoding the two identifiers, as ENCADDR's and MKFRM's are, reports whether both
are in the grammar. -/
theorem status_of_encoding_command {r : Result} {dst src : List Octet} {C M : Bool}
    (hok : ∀ a, encodeAddr dst src C M = some a → ∃ u : State, r = .next (u.setErr .ok))
    (hfail : encodeAddr dst src C M = none → ∃ u : State, r = .next (u.setErr .invalidAddress)) :
    ∃ t, r = .next t ∧ (ValidIdentifier dst ∧ ValidIdentifier src → t.status = 0#8) ∧
      (¬ ValidIdentifier dst ∨ ¬ ValidIdentifier src → t.status = 1#8) := by
  cases ha : encodeAddr dst src C M with
  | some a =>
    obtain ⟨u, hu⟩ := hok a ha
    have hvalid : ¬ (¬ ValidIdentifier dst ∨ ¬ ValidIdentifier src) :=
      encodeAddr_eq_none_iff_not_valid.not.mp (Option.ne_none_iff_exists'.mpr ⟨a, ha⟩)
    exact ⟨_, hu, fun _ => rfl, (absurd · hvalid)⟩
  | none =>
    obtain ⟨u, hu⟩ := hfail ha
    have hinvalid := not_and_or.mpr (encodeAddr_eq_none_iff_not_valid.mp ha)
    exact ⟨_, hu, (absurd · hinvalid), fun _ => rfl⟩

/-! ### Host accesses -/

/-- Only register 0 is the command port (10_state.md R20, R21). -/
theorem eq_zero_of_regShape_port {reg : Nat} {r : Reg} (hreg : regOfNumber reg = some r) (hport : regShape r = .port) :
    reg = 0 := by
  have hcmd : r = .cmd := by cases r <;> simp [regShape] at hport ⊢
  subst hcmd
  exact ((List.getElem?_inj (l := registerTable) (i := 0) (by decide) (by decide)).mp hreg.symm).symm

/-- A write of a register other than the command port that completes is a scalar write, and that is its whole effect
(10_state.md R36). -/
theorem performWr_next {reg value : Nat} {s t : State} (hne : reg ≠ 0) (h : performWr reg value s = .next t) :
    ∃ r, t = s.writeScalar r value := by
  unfold performWr at h
  split at h
  · cases h
  next r hreg =>
    split at h
    next hport => exact absurd (eq_zero_of_regShape_port hreg hport) hne
    · split at h <;> cases h
      exact ⟨r, rfl⟩
    · cases h

/-- A write of a buffer octet that completes is that write, and that is its whole effect (10_state.md R36). -/
theorem performWrOctet_next {reg index value : Nat} {s t : State} (h : performWrOctet reg index value s = .next t) :
    ∃ r, t = s.writeOctet r index value := by
  unfold performWrOctet at h
  split at h
  · cases h
  next r _ =>
    split at h
    · cases h
    · cases h
    · split at h
      · split at h <;> cases h
        exact ⟨r, rfl⟩
      · cases h

/-- STATUS is not among the registers a host access reaches, be it a write of a register other than the command port or
a read. -/
theorem perform_keeps_status {a : HostAction} {s t : State} (h : perform a s = .next t)
    (haccess : (∃ n v, n ≠ 0 ∧ a = .wr n v) ∨ (∃ n i v, a = .wrOctet n i v) ∨ (∃ n, a = .rd n) ∨
      ∃ n i, a = .rdOctet n i) : t.status = s.status := by
  rcases haccess with ⟨n, v, hne, rfl⟩ | ⟨n, i, v, rfl⟩ | ⟨n, rfl⟩ | ⟨n, i, rfl⟩
  · obtain ⟨r, rfl⟩ := performWr_next hne h
    rw [State.status, (writeScalar_frame r v s).1, State.status]
  · obtain ⟨r, rfl⟩ := performWrOctet_next h
    rw [State.status, (writeOctet_frame r i v s).1, State.status]
  · obtain ⟨v, rfl⟩ := performRd_next h
    rfl
  · obtain ⟨v, rfl⟩ := performRdOctet_next h
    rfl

/-! ### The obligation -/

/-- Settles O45: an illegal word raises the error; of the seven commands three report whether their identifiers are in
the grammar and four always complete; and a host access does not reach STATUS. -/
theorem everyCommandReportsItsOutcome : Obligations.EveryCommandReportsItsOutcome := by
  refine ⟨fun s rest n hn hpending => ?_, fun s t a rest hpending hstep haccess => ?_⟩
  · rw [step_of_pending hpending, perform]
    cases hdecode : decode (BitVec.ofNat 8 n) with
    | none => exact ⟨_, runCommand_of_decode_none hn hdecode _, rfl⟩
    | some i =>
      rw [runCommand_of_decode_some hn hdecode]
      cases i with
      | parse S => exact exec_parse_status S { s with pending := rest }
      | encaddr M C =>
        exact status_of_encoding_command (fun a ha => ⟨_, execEncaddr_some ha⟩) fun ha => ⟨_, execEncaddr_none ha⟩
      | mkfrm L X M C =>
        exact status_of_encoding_command (fun a ha => ⟨_, execMkfrm_some ha⟩) fun ha => ⟨_, execMkfrm_none ha⟩
      | bldctl => exact ⟨_, rfl, rfl⟩
      | bldctlc => exact ⟨_, rfl, rfl⟩
      | fcs S => exact ⟨_, rfl, rfl⟩
      | asmfrm L => exact ⟨_, rfl, rfl⟩
  · rw [step_of_pending hpending] at hstep
    exact perform_keeps_status (s := { s with pending := rest }) hstep haccess

end Sys2Proof.Machine
end

section
/-!
PROOFS. The commands that can fail in their two outcomes, and the four properties of a state that reset establishes and
every step keeps (10_state.md section 1, 20_memory.md section 1).
-/

namespace Sys2Proof.Machine

/-! ### The commands that can fail, each in its two outcomes -/

theorem exec_parse_cases {S : Bool} {s t : State} (h : exec (.parse S) s = .next t) :
    (∃ id, parse (identifier S s) = some id ∧
      t = (s.setStation id.call.length (pad6 id.call) id.ssid).setErr .ok) ∨
    (parse (identifier S s) = none ∧ t = s.setErr .invalidAddress) := by
  cases hp : parse (identifier S s) with
  | some id => exact .inl ⟨id, rfl, Host.Outcome.next.inj (h.symm.trans (execParse_some hp))⟩
  | none => exact .inr ⟨rfl, Host.Outcome.next.inj (h.symm.trans (execParse_none hp))⟩

theorem exec_encaddr_cases {M C : Bool} {s t : State} (h : exec (.encaddr M C) s = .next t) :
    (∃ a, encodeAddr (destination s) (source s) C M = some a ∧ t = (s.setAddr a).setErr .ok) ∨
    (encodeAddr (destination s) (source s) C M = none ∧ t = s.setErr .invalidAddress) := by
  cases ha : encodeAddr (destination s) (source s) C M with
  | some a => exact .inl ⟨a, rfl, Host.Outcome.next.inj (h.symm.trans (execEncaddr_some ha))⟩
  | none => exact .inr ⟨rfl, Host.Outcome.next.inj (h.symm.trans (execEncaddr_none ha))⟩

theorem exec_mkfrm_cases {L X M C : Bool} {s t : State} (h : exec (.mkfrm L X M C) s = .next t) :
    (∃ a, encodeAddr (destination s) (source s) C M = some a ∧ t = (makeFrame L X a s).setErr .ok) ∨
    (encodeAddr (destination s) (source s) C M = none ∧ t = s.clearFrame.setErr .invalidAddress) := by
  cases ha : encodeAddr (destination s) (source s) C M with
  | some a => exact .inl ⟨a, rfl, Host.Outcome.next.inj (h.symm.trans (execMkfrm_some ha))⟩
  | none => exact .inr ⟨rfl, Host.Outcome.next.inj (h.symm.trans (execMkfrm_none ha))⟩

/-! ### Registers the host cannot write -/

/-- The registers a host write leaves as they are (10_state.md R36), CMD aside, which holds nothing. -/
def State.readOnly (s : State) := (s.err, s.fcsr, s.frmlen, s.frame, s.plen, s.pcall, s.pssid)

theorem writeScalar_readOnly (r : Reg) (v : Nat) (s : State) : (s.writeScalar r v).readOnly = s.readOnly := by
  cases r <;> rfl

theorem writeOctet_readOnly (r : Reg) (i v : Nat) (s : State) : (s.writeOctet r i v).readOnly = s.readOnly := by
  cases r <;> rfl

/-- A property of these registers is kept by every step when reset establishes it and commands, legal and illegal, keep
it. -/
theorem step_keeps_of_readOnly {P : State → Prop} (only : ∀ {s t : State}, t.readOnly = s.readOnly → P s → P t)
    (command : ∀ {i s t}, P s → exec i s = .next t → P t)
    (error : ∀ {s : State}, P s → P (s.setErr .illegalCommand))
    (reset : P State.reset) {s t : State} (hs : P s) (h : step s = .next t) : P t :=
  step_keeps (P := P) (fun _ _ => only rfl) (fun _ _ _ => command) (fun _ => error)
    (fun r v _ s _ _ => only (writeScalar_readOnly r v s)) (fun r i v _ s _ _ _ => only (writeOctet_readOnly r i v s))
    (fun _ _ => only rfl) (fun _ _ => only (s := State.reset) rfl reset) hs h

/-! ### The parsed StationId -/

theorem Memory.readRange_add (m : Memory) (i n k : Nat) :
    m.readRange i (n + k) = m.readRange i n ++ m.readRange (i + n) k := by
  simp only [Memory.readRange, ← List.map_append, List.range'_append_1]

/-- What PARSE stores of a parsed identifier is a StationId (40_callsign_parser.md R118 (d)). -/
theorem setStation_stationIdValid {text : List Octet} {id : StationId} (h : parse text = some id) (s : State) :
    (s.setStation id.call.length (pad6 id.call) id.ssid).StationIdValid := by
  have hcall : IsCallsign id.call := (denotes_of_parse h).1
  obtain ⟨hplen, hpcall, _⟩ := setStation_reads h s
  have hsplit : id.call.length + (6 - id.call.length) = 6 := Nat.add_sub_cancel' hcall.2.1
  rw [← hsplit, Memory.readRange_add, Nat.zero_add] at hpcall
  obtain ⟨hchars, hpad⟩ := List.append_inj (hpcall.trans (pad6_eq_spacePadded id.call)) (Memory.length_readRange ..)
  exact .inr (by rw [hplen, hchars]; exact ⟨hcall, hpad⟩)

theorem stationIdValid_congr {s t : State} (hplen : t.plen = s.plen) (hpcall : t.pcall = s.pcall)
    (hpssid : t.pssid = s.pssid) (hs : s.StationIdValid) : t.StationIdValid := by
  rwa [State.StationIdValid, hplen, hpcall, hpssid]

theorem exec_keeps_stationIdValid {i : Instr} {s t : State} (hs : s.StationIdValid) (h : exec i s = .next t) :
    t.StationIdValid := by
  rcases exec_cases h with ⟨S, id, _, hid, rfl⟩ | ⟨_, _, _, rfl⟩ | ⟨_, _, _, _, _, rfl⟩ | ⟨_, _, _, _, rfl⟩ |
    ⟨_, _, rfl⟩ | ⟨_, _, rfl⟩ | ⟨_, _, rfl⟩ | ⟨_, _, _, _, _, _, _, rfl⟩ | ⟨_, _, _, _, _, _, rfl⟩
  · exact stationIdValid_congr rfl rfl rfl (setStation_stationIdValid hid s)
  all_goals exact stationIdValid_congr (by simp [makeFrame]) (by simp [makeFrame]) (by simp [makeFrame]) hs

theorem stationIdValid_of_readOnly {s t : State} (h : t.readOnly = s.readOnly) (hs : s.StationIdValid) :
    t.StationIdValid := by
  simp only [State.readOnly, Prod.mk.injEq] at h
  obtain ⟨_, _, _, _, hplen, hpcall, hpssid⟩ := h
  exact stationIdValid_congr hplen hpcall hpssid hs

/-- Settles O52: only a PARSE that ends OK and reset reach these registers. -/
theorem stepKeepsStationIdValid : Obligations.StepKeepsStationIdValid := by
  intro s t
  exact step_keeps_of_readOnly stationIdValid_of_readOnly exec_keeps_stationIdValid id (.inl ⟨rfl, rfl, rfl⟩)

/-! ### The frame -/

/-- A frame assembled from fourteen address octets and a payload the block can hold is complete (30_encoding.md R91). -/
theorem storeFrame_frameComplete {addr pay : List Octet} (ctrl pid : Octet) (L : Bool) (haddr : addr.length = 14)
    (hpay : pay.length ≤ Config.payMax) (s : State) :
    (s.storeFrame (asmFrame addr ctrl pid pay L)).FrameComplete := by
  obtain ⟨_, hframe, _⟩ := storeFrame_holds (asmFrame_fst ..) (length_asmFrame_le ctrl pid L haddr hpay) s
  exact .inr ⟨L, addr, ctrl, pid, pay, haddr, hpay, hframe⟩

theorem exec_keeps_frameComplete {i : Instr} {s t : State} (hs : s.FrameComplete) (h : exec i s = .next t) :
    t.FrameComplete := by
  rcases exec_cases h with ⟨_, _, _, _, rfl⟩ | ⟨_, _, _, rfl⟩ | ⟨_, _, _, _, _, rfl⟩ | ⟨_, _, _, _, rfl⟩ |
    ⟨_, _, rfl⟩ | ⟨_, _, rfl⟩ | ⟨L, _, rfl⟩ | ⟨L, X, _, _, a, _, ha, rfl⟩ | ⟨_, _, _, _, _, _, rfl⟩
  iterate 6 exact hs
  · exact storeFrame_frameComplete s.ctrl s.pid L (length_addressField s) (length_payloadOctets_le s) s
  · exact storeFrame_frameComplete (controlOctet X s) s.pid L (encodeAddr_some ha).1 (length_payloadOctets_le s)
      ((s.setAddr a).setCtrl (controlOctet X s))
  · exact .inl rfl

theorem frameComplete_of_readOnly {s t : State} (h : t.readOnly = s.readOnly) (hs : s.FrameComplete) :
    t.FrameComplete := by
  simp only [State.readOnly, Prod.mk.injEq] at h
  obtain ⟨_, _, hfrmlen, hframe, _⟩ := h
  rwa [State.FrameComplete, hfrmlen, hframe]

/-- Settles O53: ASMFRM and a MKFRM that ends OK store a whole frame, a failed MKFRM and reset store none, and nothing
else reaches FRMLEN or FRAME. -/
theorem stepKeepsFrameComplete : Obligations.StepKeepsFrameComplete := by
  intro s t
  exact step_keeps_of_readOnly frameComplete_of_readOnly exec_keeps_frameComplete id (.inl rfl)

/-! ### STATUS -/

theorem errCode_ne_three (e : Err) : errCode e ≠ 3#2 := by cases e <;> decide

/-- Every command writes STATUS.ERR with the code of an outcome (60_exceptions.md R212). -/
theorem exec_err {i : Instr} {s t : State} (h : exec i s = .next t) : ∃ e, t.err = errCode e := by
  rcases exec_cases h with ⟨_, _, _, _, rfl⟩ | ⟨_, _, _, rfl⟩ | ⟨_, _, _, _, _, rfl⟩ | ⟨_, _, _, _, rfl⟩ |
    ⟨_, _, rfl⟩ | ⟨_, _, rfl⟩ | ⟨_, _, rfl⟩ | ⟨_, _, _, _, _, _, _, rfl⟩ | ⟨_, _, _, _, _, _, rfl⟩ <;>
    exact ⟨_, State.setErr_err _ _⟩

theorem exec_statusLegal {i : Instr} {s t : State} (h : exec i s = .next t) : t.StatusLegal := by
  obtain ⟨e, he⟩ := exec_err h
  rw [State.StatusLegal, he]
  exact errCode_ne_three e

theorem statusLegal_of_readOnly {s t : State} (h : t.readOnly = s.readOnly) (hs : s.StatusLegal) : t.StatusLegal := by
  have herr : t.err = s.err := congrArg Prod.fst h
  rwa [State.StatusLegal, herr]

/-- The four values of ERR, each as the register STATUS (10_state.md R22). -/
theorem status_bits : ∀ e : BitVec 2,
    ((e.setWidth 8).extractLsb' 2 6 = 0#6 ∧ (e.setWidth 8).extractLsb' 0 2 = e) ∧
    (e ≠ 3#2 → e.setWidth 8 = 0#8 ∨ e.setWidth 8 = 1#8 ∨ e.setWidth 8 = 2#8) := by
  decide

/-- Settles O51: every write of ERR is an outcome's code, and STATUS is ERR with six zero bits above it. -/
theorem stepKeepsStatusLegal : Obligations.StepKeepsStatusLegal := by
  refine ⟨fun s t => ?_, fun s => (status_bits s.err).1, fun s => (status_bits s.err).2⟩
  exact step_keeps_of_readOnly statusLegal_of_readOnly (fun _ => exec_statusLegal)
    (fun _ => errCode_ne_three .illegalCommand) (by decide)

/-! ### The buffers -/

theorem Memory.canonical_write {m : Memory} {n i : Nat} (b : Octet) (h : m.wf ∧ m.within n) (hi : i < n) :
    (m.write i b).wf ∧ (m.write i b).within n :=
  ⟨wf_write i b h.1, within_write b h.2 hi⟩

theorem Memory.canonical_writeRange {m : Memory} {n : Nat} {s : List Octet} (h : m.wf ∧ m.within n)
    (hs : s.length ≤ n) : (m.writeRange 0 s).wf ∧ (m.writeRange 0 s).within n :=
  ⟨wf_writeRange 0 s h.1, within_writeRange 0 s h.2 (by rwa [Nat.zero_add])⟩

section
variable {s : State} (hs : s.BuffersCanonical)
include hs

theorem setErr_buffersCanonical (e : Err) : (s.setErr e).BuffersCanonical := hs

theorem setCtrl_buffersCanonical (c : Octet) : (s.setCtrl c).BuffersCanonical := hs

theorem setFcsr_buffersCanonical (c : Word16) : (s.setFcsr c).BuffersCanonical := hs

theorem clearFrame_buffersCanonical : s.clearFrame.BuffersCanonical := hs

theorem setStation_buffersCanonical {p : List Octet} (hp : p.length ≤ Config.callLen) (k n : Nat) :
    (s.setStation k p n).BuffersCanonical := by
  obtain ⟨hdst, hsrc, hpay, haddr, hframe, hpcall⟩ := hs
  exact ⟨hdst, hsrc, hpay, haddr, hframe, Memory.canonical_writeRange hpcall hp⟩

theorem setAddr_buffersCanonical {a : List Octet} (ha : a.length ≤ Config.addrLen) :
    (s.setAddr a).BuffersCanonical := by
  obtain ⟨hdst, hsrc, hpay, haddr, hframe, hpcall⟩ := hs
  exact ⟨hdst, hsrc, hpay, Memory.canonical_writeRange haddr ha, hframe, hpcall⟩

theorem storeFrame_buffersCanonical {r : List Octet × Word16} (hr : r.1.length ≤ Config.frmMax) :
    (s.storeFrame r).BuffersCanonical := by
  obtain ⟨hdst, hsrc, hpay, haddr, hframe, hpcall⟩ := hs
  exact ⟨hdst, hsrc, hpay, haddr, Memory.canonical_writeRange hframe hr, hpcall⟩

theorem makeFrame_buffersCanonical {a : List Octet} (ha : a.length = 14) (L X : Bool) :
    (makeFrame L X a s).BuffersCanonical :=
  storeFrame_buffersCanonical (setCtrl_buffersCanonical (setAddr_buffersCanonical hs ha.le) _)
    (length_asmFrame_le _ _ L ha (length_payloadOctets_le s))

end

theorem exec_keeps_buffersCanonical {i : Instr} {s t : State} (hs : s.BuffersCanonical) (h : exec i s = .next t) :
    t.BuffersCanonical := by
  rcases exec_cases h with ⟨_, id, _, hid, rfl⟩ | ⟨_, _, _, rfl⟩ | ⟨_, _, a, _, ha, rfl⟩ | ⟨_, _, _, _, rfl⟩ |
    ⟨_, _, rfl⟩ | ⟨_, _, rfl⟩ | ⟨L, _, rfl⟩ | ⟨L, X, _, _, a, _, ha, rfl⟩ | ⟨_, _, _, _, _, _, rfl⟩ <;>
    apply setErr_buffersCanonical
  · exact setStation_buffersCanonical hs (length_pad6 (parse_some hid).2.1).le _ _
  · exact hs
  · exact setAddr_buffersCanonical hs (encodeAddr_some ha).1.le
  · exact hs
  · exact setCtrl_buffersCanonical hs _
  · exact setFcsr_buffersCanonical hs _
  · exact storeFrame_buffersCanonical hs
      (length_asmFrame_le s.ctrl s.pid L (length_addressField s) (length_payloadOctets_le s))
  · exact makeFrame_buffersCanonical hs (encodeAddr_some ha).1 L X
  · exact clearFrame_buffersCanonical hs

/-- A host write of an octet within its buffer, which is one of the four the host can write (10_state.md R36). -/
theorem writeOctet_keeps_buffersCanonical {r : Reg} {n i : Nat} (v : Nat) {s : State} (hr : regShape r = .buffer n)
    (hi : i < n) (hs : s.BuffersCanonical) : (s.writeOctet r i v).BuffersCanonical := by
  obtain ⟨hdst, hsrc, hpay, haddr, hframe, hpcall⟩ := hs
  cases r <;> cases hr
  case dstid => exact ⟨Memory.canonical_write _ hdst hi, hsrc, hpay, haddr, hframe, hpcall⟩
  case srcid => exact ⟨hdst, Memory.canonical_write _ hsrc hi, hpay, haddr, hframe, hpcall⟩
  case payload => exact ⟨hdst, hsrc, Memory.canonical_write _ hpay hi, haddr, hframe, hpcall⟩
  case addr => exact ⟨hdst, hsrc, hpay, Memory.canonical_write _ haddr hi, hframe, hpcall⟩
  all_goals exact ⟨hdst, hsrc, hpay, haddr, hframe, hpcall⟩

theorem writeScalar_keeps_buffersCanonical (r : Reg) (v : Nat) {s : State} (hs : s.BuffersCanonical) :
    (s.writeScalar r v).BuffersCanonical := by
  cases r <;> exact hs

theorem reset_buffersCanonical : State.reset.BuffersCanonical := by decide

/-- Settles O50: every write of a buffer, by a command or by the host, is one that keeps its form and lies within it. -/
theorem stepKeepsBuffersCanonical : Obligations.StepKeepsBuffersCanonical := by
  intro s t
  exact step_keeps (P := State.BuffersCanonical) (fun _ _ => id) (fun _ _ _ => exec_keeps_buffersCanonical)
    (fun _ => id) (fun r v _ _ _ _ => writeScalar_keeps_buffersCanonical r v)
    (fun _ _ v _ _ hr hi _ => writeOctet_keeps_buffersCanonical v hr hi) (fun _ _ => id)
    (fun _ _ => reset_buffersCanonical)

/-! ### Reset -/

/-- Settles O49: reset leaves blank buffers, no error, no StationId and no frame (10_state.md R45). -/
theorem resetSatisfiesTheInvariants : Obligations.ResetSatisfiesTheInvariants :=
  ⟨reset_buffersCanonical, by decide, .inl ⟨rfl, rfl, rfl⟩, .inl rfl⟩

end Sys2Proof.Machine
end

section
/-!
PROOFS. The host's side: what a step makes of each host action, which actions complete, and the writes WRS stands for
(10_state.md section 2, 00_scope.md R17, 93_implementation_defined.md U2, U3, U6).
-/

namespace Sys2Proof.Machine

/-! ### Steps -/

theorem step_of_no_pending {s : State} (h : s.pending = []) : step s = .next s := by
  simp only [step, hostStep, h]

/-- Settles O10: waiting is a step that changes nothing. -/
theorem waitingBlockChangesNothing : Obligations.WaitingBlockChangesNothing := fun _ => step_of_no_pending

/-- Settles O2: a reset that is performed. -/
theorem resetEventRestoresEveryRegister : Obligations.ResetEventRestoresEveryRegister :=
  fun _ _ hpending => step_of_pending hpending

/-- Register 0 reads as 0 (10_state.md R21). -/
theorem step_rd_zero {s : State} {rest : List HostAction} (h : s.pending = .rd 0 :: rest) :
    step s = .next { s with pending := rest, returned := 0 :: s.returned } :=
  step_of_pending h

/-- A word written to the command port, in either form of the write, is run (10_state.md R21). -/
theorem step_command {s : State} {rest : List HostAction} {w : Nat}
    (h : s.pending = .cmd w :: rest ∨ s.pending = .wr 0 w :: rest) :
    step s = runCommand w { s with pending := rest } := by
  obtain h | h := h
  · exact step_of_pending h
  · exact (step_of_pending h).trans (performWr_zero w _)

theorem step_illegal_word {s : State} {rest : List HostAction} {w : Nat} (hw : w < 2 ^ 8)
    (hillegal : decode (BitVec.ofNat 8 w) = none) (h : s.pending = .cmd w :: rest ∨ s.pending = .wr 0 w :: rest) :
    step s = .next { s with pending := rest, err := 2#2 } :=
  (step_command h).trans (runCommand_of_decode_none hw hillegal _)

/-- A table row's word of eight bits is itself, and is what the next step runs (log entry 8). -/
theorem step_withFetchWord {s : State} {w : Nat} {i : Instr} (hw : w < 2 ^ 8)
    (hi : decodeTableWord 8 w = some i) : step (s.withFetchWord 8 w) = exec i s := by
  have hword : tableWord 8 w = w := Nat.mod_eq_of_lt hw
  rw [decodeTableWord, hword, if_pos hw] at hi
  have hpending : (s.withFetchWord 8 w).pending = .cmd w :: s.pending := by
    rw [State.withFetchWord, State.queueWord, hword]
  exact (step_of_pending hpending).trans (runCommand_of_decode_some hw hi s)

/-- Settles O9: both forms of the write run the word, and so does a word placed by `withFetchWord`. -/
theorem stepRunsTheDecodedCommand : Obligations.StepRunsTheDecodedCommand :=
  ⟨fun _ _ _ _ hw hi h => (step_command h).trans (runCommand_of_decode_some hw hi _),
    fun _ _ _ hw => step_illegal_word hw, fun _ _ _ => step_withFetchWord, fun _ _ => step_rd_zero⟩

/-! ### Illegal words -/

/-- A word is illegal when it is none of the 28 legal ones (30_encoding.md R84, R85). -/
theorem decode_eq_none_iff {n : Nat} (hn : n < 256) : decode (BitVec.ofNat 8 n) = none ↔
    n ∉ [0x20, 0x30, 0x40, 0x41, 0x42, 0x43, 0x60, 0x64, 0x80, 0x90, 0xA0, 0xA8] ++ List.range' 0xC0 16 := by
  rw [← legalWords, List.mem_filter, List.mem_range, Option.isSome_iff_ne_none]
  simp only [hn, true_and, not_not]

/-- What is no legal word of the 256 is illegal. -/
theorem illegalWords_length :
    ((List.range 256).filter (fun n => (decode (BitVec.ofNat 8 n)).isNone)).length = 228 := by
  have hsplit := (List.range 256).length_eq_length_filter_add (fun n => (decode (BitVec.ofNat 8 n)).isSome)
  simp only [Option.not_isSome, legalWords, List.length_range, List.length_append, List.length_range',
    List.length_cons, List.length_nil] at hsplit
  omega

/-- Settles O6: the legal words are known, and an illegal one's step is the error. -/
theorem illegalWordsChangeOnlyStatus : Obligations.IllegalWordsChangeOnlyStatus := by
  refine ⟨fun n hn hop => ?_, by decide, illegalWords_length, fun s rest n hn hillegal hpending => ?_⟩
  · rw [decode_eq_none_iff hn]
    simp only [List.mem_append, List.mem_cons, List.not_mem_nil, or_false, List.mem_range'_1]
    omega
  · refine ⟨step_illegal_word hn hillegal (.inl hpending), rfl, ?_⟩
    rintro a more rfl
    exact step_of_pending rfl

/-- Settles O8: the words, decoded. -/
theorem writtenOutWordsDecode : Obligations.WrittenOutWordsDecode := by
  unfold Obligations.WrittenOutWordsDecode
  decide

/-! ### Register numbers and kinds -/

theorem regOfNumber_of_ge {n : Nat} (h : 20 ≤ n) : regOfNumber n = none := List.getElem?_eq_none h

/-- Settles O4: the table, row by row. -/
theorem registerTableNumbersShapesAccess : Obligations.RegisterTableNumbersShapesAccess :=
  ⟨rfl, fun _ => regOfNumber_of_ge, regOfNumber_regNumber⟩

section
variable {n i v k w : Nat} {r : Reg} {s : State}

theorem performWr_of_none (hreg : regOfNumber n = none) : performWr n v s = .refused (.noSuchRegister n) := by
  simp only [performWr, hreg]

theorem performWrOctet_of_none (hreg : regOfNumber n = none) :
    performWrOctet n i v s = .refused (.noSuchRegister n) := by
  simp only [performWrOctet, hreg]

theorem performRd_of_none (hreg : regOfNumber n = none) : performRd n s = .refused (.noSuchRegister n) := by
  simp only [performRd, hreg]

theorem performRdOctet_of_none (hreg : regOfNumber n = none) :
    performRdOctet n i s = .refused (.noSuchRegister n) := by
  simp only [performRdOctet, hreg]

theorem performWr_of_port (hreg : regOfNumber n = some r) (hr : regShape r = .port) :
    performWr n v s = runCommand v s := by
  simp only [performWr, hreg, hr]

theorem performWr_of_scalar (hreg : regOfNumber n = some r) (hr : regShape r = .scalar w) :
    performWr n v s = if v < 2 ^ w then .next (s.writeScalar r v) else .refused (.valueTooWide n v) := by
  simp only [performWr, hreg, hr]

theorem performWr_of_buffer (hreg : regOfNumber n = some r) (hr : regShape r = .buffer k) :
    performWr n v s = .refused (.wrongKind n) := by
  simp only [performWr, hreg, hr]

theorem performWrOctet_of_buffer (hreg : regOfNumber n = some r) (hr : regShape r = .buffer k) :
    performWrOctet n i v s = if i < k then
      if v < 2 ^ 8 then .next (s.writeOctet r i v) else .refused (.valueTooWide n v)
      else .refused (.noSuchOctet n i) := by
  simp only [performWrOctet, hreg, hr]

theorem performWrOctet_of_not_buffer (hreg : regOfNumber n = some r) (hr : ∀ k, regShape r ≠ .buffer k) :
    performWrOctet n i v s = .refused (.wrongKind n) := by
  cases hshape : regShape r with
  | port => simp only [performWrOctet, hreg, hshape]
  | scalar w => simp only [performWrOctet, hreg, hshape]
  | buffer k => exact absurd hshape (hr k)

theorem performRd_of_not_buffer (hreg : regOfNumber n = some r) (hr : ∀ k, regShape r ≠ .buffer k) :
    performRd n s = .next (s.answer (s.scalarValue r)) := by
  cases hshape : regShape r with
  | port => simp only [performRd, hreg, hshape]
  | scalar w => simp only [performRd, hreg, hshape]
  | buffer k => exact absurd hshape (hr k)

theorem performRd_of_buffer (hreg : regOfNumber n = some r) (hr : regShape r = .buffer k) :
    performRd n s = .refused (.wrongKind n) := by
  simp only [performRd, hreg, hr]

theorem performRdOctet_of_buffer (hreg : regOfNumber n = some r) (hr : regShape r = .buffer k) :
    performRdOctet n i s = if i < k then .next (s.answer ((s.bufferOf r).read i).toNat)
      else .refused (.noSuchOctet n i) := by
  simp only [performRdOctet, hreg, hr]

theorem performRdOctet_of_not_buffer (hreg : regOfNumber n = some r) (hr : ∀ k, regShape r ≠ .buffer k) :
    performRdOctet n i s = .refused (.wrongKind n) := by
  cases hshape : regShape r with
  | port => simp only [performRdOctet, hreg, hshape]
  | scalar w => simp only [performRdOctet, hreg, hshape]
  | buffer k => exact absurd hshape (hr k)

end

/-! ### Which actions complete -/

/-- Every command completes (60_exceptions.md R211). -/
theorem exec_completes (i : Instr) (s : State) : ∃ t, exec i s = .next t := by
  cases i with
  | parse S => simp only [exec, execParse]; split <;> exact ⟨_, rfl⟩
  | encaddr M C => simp only [exec, execEncaddr]; split <;> exact ⟨_, rfl⟩
  | mkfrm L X M C => simp only [exec, execMkfrm]; split <;> exact ⟨_, rfl⟩
  | bldctl => exact ⟨_, rfl⟩
  | bldctlc => exact ⟨_, rfl⟩
  | fcs S => exact ⟨_, rfl⟩
  | asmfrm L => exact ⟨_, rfl⟩

theorem runCommand_too_wide {w : Nat} (h : 2 ^ 8 ≤ w) (s : State) :
    runCommand w s = .refused (.valueTooWide 0 w) :=
  if_neg (Nat.not_lt.mpr h)

/-- The port takes every word of eight bits and no wider one (93_implementation_defined.md U3). -/
theorem runCommand_completes_iff (w : Nat) (s : State) : (∃ t, runCommand w s = .next t) ↔ w < 2 ^ 8 := by
  refine ⟨fun ⟨_, h⟩ => (runCommand_cases h).1, fun hw => ?_⟩
  cases hdecode : decode (BitVec.ofNat 8 w) with
  | some i => exact runCommand_of_decode_some hw hdecode s ▸ exec_completes i s
  | none => exact ⟨_, runCommand_of_decode_none hw hdecode s⟩

theorem performWr_completes_iff (n v : Nat) (s : State) : (∃ t, performWr n v s = .next t) ↔ wrWf n v = true := by
  cases hreg : regOfNumber n with
  | none => simp [performWr_of_none hreg, wrWf, hreg]
  | some r =>
    cases hr : regShape r with
    | port => simp [performWr_of_port hreg hr, wrWf, hreg, hr, runCommand_completes_iff]
    | scalar w => by_cases hv : v < 2 ^ w <;> simp [performWr_of_scalar hreg hr, wrWf, hreg, hr, hv]
    | buffer k => simp [performWr_of_buffer hreg hr, wrWf, hreg, hr]

theorem performWrOctet_completes_iff (n i v : Nat) (s : State) :
    (∃ t, performWrOctet n i v s = .next t) ↔ (octetWf n i && decide (v < 2 ^ 8)) = true := by
  cases hreg : regOfNumber n with
  | none => simp [performWrOctet_of_none hreg, octetWf, hreg]
  | some r =>
    cases hr : regShape r with
    | port => simp [performWrOctet_of_not_buffer hreg, octetWf, hreg, hr]
    | scalar w => simp [performWrOctet_of_not_buffer hreg, octetWf, hreg, hr]
    | buffer k =>
      by_cases hi : i < k
      · by_cases hv : v < 256 <;> simp [performWrOctet_of_buffer hreg hr, octetWf, hreg, hr, hi, hv]
      · simp [performWrOctet_of_buffer hreg hr, octetWf, hreg, hr, hi]

theorem performRd_completes_iff (n : Nat) (s : State) : (∃ t, performRd n s = .next t) ↔ rdWf n = true := by
  cases hreg : regOfNumber n with
  | none => simp [performRd_of_none hreg, rdWf, hreg]
  | some r =>
    cases hr : regShape r with
    | port => simp [performRd_of_not_buffer hreg, rdWf, hreg, hr]
    | scalar w => simp [performRd_of_not_buffer hreg, rdWf, hreg, hr]
    | buffer k => simp [performRd_of_buffer hreg hr, rdWf, hreg, hr]

theorem performRdOctet_completes_iff (n i : Nat) (s : State) :
    (∃ t, performRdOctet n i s = .next t) ↔ octetWf n i = true := by
  cases hreg : regOfNumber n with
  | none => simp [performRdOctet_of_none hreg, octetWf, hreg]
  | some r =>
    cases hr : regShape r with
    | port => simp [performRdOctet_of_not_buffer hreg, octetWf, hreg, hr]
    | scalar w => simp [performRdOctet_of_not_buffer hreg, octetWf, hreg, hr]
    | buffer k => by_cases hi : i < k <;> simp [performRdOctet_of_buffer hreg hr, octetWf, hreg, hr, hi]

/-- Settles O12: action by action, what completes is what `HostAction.wf` says. -/
theorem hostActionsCompleteExactlyWhenWellFormed : Obligations.HostActionsCompleteExactlyWhenWellFormed := by
  intro s a rest hpending
  rw [step_of_pending hpending]
  cases a with
  | wr n v => exact performWr_completes_iff n v _
  | wrOctet n i v => exact performWrOctet_completes_iff n i v _
  | rd n => exact performRd_completes_iff n _
  | rdOctet n i => exact performRdOctet_completes_iff n i _
  | cmd w => exact (runCommand_completes_iff w _).trans (decide_eq_true_iff (p := w < 2 ^ 8)).symm
  | reset => exact iff_of_true ⟨_, rfl⟩ rfl

/-- Settles O13: each refusal is a branch of the action's own equation. -/
theorem actionsOutsideTheAlphabetAreRefused : Obligations.ActionsOutsideTheAlphabetAreRefused := by
  refine ⟨?_, ?_, ?_, ?_, ?_, ?_, ?_⟩
  · intro s rest n v i hn h
    have hreg := regOfNumber_of_ge hn
    obtain h | h | h | h := h
    · exact (step_of_pending h).trans (performWr_of_none hreg)
    · exact (step_of_pending h).trans (performWrOctet_of_none hreg)
    · exact (step_of_pending h).trans (performRd_of_none hreg)
    · exact (step_of_pending h).trans (performRdOctet_of_none hreg)
  · intro s rest n r w v hreg hr hv h
    rw [step_of_pending h, perform, performWr_of_scalar hreg hr, if_neg (Nat.not_lt.mpr hv)]
  · intro s rest n r k i v hreg hr hi hv h
    rw [step_of_pending h, perform, performWrOctet_of_buffer hreg hr, if_pos hi,
      if_neg (show ¬ v < 2 ^ 8 from Nat.not_lt.mpr hv)]
  · intro s rest w hw h
    exact (step_command h).trans (runCommand_too_wide hw _)
  · intro s rest n r k i v hreg hr hi h
    obtain h | h := h
    · rw [step_of_pending h, perform, performWrOctet_of_buffer hreg hr, if_neg (Nat.not_lt.mpr hi)]
    · rw [step_of_pending h, perform, performRdOctet_of_buffer hreg hr, if_neg (Nat.not_lt.mpr hi)]
  · intro s rest n r k v hreg hr h
    obtain h | h := h
    · exact (step_of_pending h).trans (performWr_of_buffer hreg hr)
    · exact (step_of_pending h).trans (performRd_of_buffer hreg hr)
  · intro s rest n r i v hreg hr h
    obtain h | h := h
    · exact (step_of_pending h).trans (performWrOctet_of_not_buffer hreg hr)
    · exact (step_of_pending h).trans (performRdOctet_of_not_buffer hreg hr)

/-! ### What an access reaches -/

section
variable {k w : Nat} {r q : Reg}

theorem scalarValue_writeScalar_same {v : Nat} (hr : regShape r = .scalar w) (hv : v < 2 ^ w) (s : State) :
    (s.writeScalar r v).scalarValue r =
      if r ∈ [.status, .fcsr, .frmlen, .plen, .pssid] then s.scalarValue r else v := by
  cases r <;> cases hr
  case dstlen.refl | srclen.refl | nr.refl | ns.refl | pf.refl | pid.refl | paylen.refl | ctrl.refl =>
    exact Nat.mod_eq_of_lt hv
  all_goals rfl

/-- A write of a register without a W in 10_state.md R20 is ignored, so the cases are the eight with one. -/
theorem scalarValue_writeScalar_of_ne (h : q ≠ r) (v : Nat) (s : State) :
    (s.writeScalar r v).scalarValue q = s.scalarValue q := by
  cases r
  case dstlen | srclen | nr | ns | pf | pid | paylen | ctrl =>
    cases q <;> simp [State.writeScalar, State.scalarValue, State.status] at h ⊢
  all_goals rfl

theorem bufferOf_writeScalar (r q : Reg) (v : Nat) (s : State) : (s.writeScalar r v).bufferOf q = s.bufferOf q := by
  cases r <;> rfl

theorem bufferOf_writeOctet_same (hr : regShape r = .buffer k) (i v : Nat) (s : State) :
    (s.writeOctet r i v).bufferOf r =
      if r ∈ [.frame, .pcall] then s.bufferOf r else (s.bufferOf r).write i (BitVec.ofNat 8 v) := by
  cases r <;> cases hr <;> rfl

/-- The cases are the four buffers the host can write. -/
theorem bufferOf_writeOctet_of_ne (h : q ≠ r) (i v : Nat) (s : State) :
    (s.writeOctet r i v).bufferOf q = s.bufferOf q := by
  cases r
  case dstid | srcid | payload | addr => cases q <;> simp [State.writeOctet, State.bufferOf] at h ⊢
  all_goals rfl

theorem scalarValue_writeOctet (r q : Reg) (i v : Nat) (s : State) :
    (s.writeOctet r i v).scalarValue q = s.scalarValue q := by
  cases r <;> rfl

end

theorem step_wr_scalar {s : State} {rest : List HostAction} {n w v : Nat} {r : Reg} (hreg : regOfNumber n = some r)
    (hr : regShape r = .scalar w) (hv : v < 2 ^ w) (h : s.pending = .wr n v :: rest) :
    step s = .next (State.writeScalar r v { s with pending := rest }) := by
  rw [step_of_pending h, perform, performWr_of_scalar hreg hr, if_pos hv]

theorem step_wrOctet {s : State} {rest : List HostAction} {n k i v : Nat} {r : Reg} (hreg : regOfNumber n = some r)
    (hr : regShape r = .buffer k) (hi : i < k) (hv : v < 2 ^ 8) (h : s.pending = .wrOctet n i v :: rest) :
    step s = .next (State.writeOctet r i v { s with pending := rest }) := by
  rw [step_of_pending h, perform, performWrOctet_of_buffer hreg hr, if_pos hi, if_pos hv]

theorem step_rd {s : State} {rest : List HostAction} {n : Nat} {r : Reg} (hreg : regOfNumber n = some r)
    (hr : ∀ k, regShape r ≠ .buffer k) (h : s.pending = .rd n :: rest) :
    step s = .next { s with pending := rest, returned := s.scalarValue r :: s.returned } :=
  (step_of_pending h).trans (performRd_of_not_buffer hreg hr)

theorem step_rdOctet {s : State} {rest : List HostAction} {n k i : Nat} {r : Reg} (hreg : regOfNumber n = some r)
    (hr : regShape r = .buffer k) (hi : i < k) (h : s.pending = .rdOctet n i :: rest) :
    step s = .next { s with pending := rest, returned := ((s.bufferOf r).read i).toNat :: s.returned } := by
  rw [step_of_pending h, perform, performRdOctet_of_buffer hreg hr, if_pos hi]
  rfl

/-- Settles O11: a write reaches its own register where the host may write it, and a read reaches none. -/
theorem hostAccessesTouchOnlyTheirRegister : Obligations.HostAccessesTouchOnlyTheirRegister := by
  refine ⟨?_, ?_, ?_, ?_, fun _ _ => step_rd_zero⟩
  · intro s rest n r w v hreg hr hv h
    obtain ⟨_, _, _, _, _, _, _, _, _, _, _, hpending, hreturned⟩ :=
      writeScalar_frame r v { s with pending := rest }
    exact ⟨_, step_wr_scalar hreg hr hv h, scalarValue_writeScalar_same hr hv _,
      fun _ hq => scalarValue_writeScalar_of_ne hq v _, fun q => bufferOf_writeScalar r q v _, hpending, hreturned⟩
  · intro s rest n r k i v hreg hr hi hv h
    obtain ⟨_, _, _, _, _, _, _, _, _, _, _, _, _, _, _, hpending, hreturned⟩ :=
      writeOctet_frame r i v { s with pending := rest }
    refine ⟨_, step_wrOctet hreg hr hi hv h, ?_, fun a ha => ?_, fun _ hq => bufferOf_writeOctet_of_ne hq i v _,
      fun q => scalarValue_writeOctet r q i v _, hpending, hreturned⟩
    · rw [bufferOf_writeOctet_same hr, apply_ite (Memory.read · i), Memory.read_write_same]
      rfl
    · rw [bufferOf_writeOctet_same hr, apply_ite (Memory.read · a), Memory.read_write_of_ne _ _ ha, ite_self]
      rfl
  · rintro s rest n r hreg ⟨w, hr⟩ h
    exact step_rd hreg (by simp [hr]) h
  · intro s rest n r k i hreg hr hi h
    exact step_rdOctet hreg hr hi h

/-! ### WRS -/

theorem core_run_succ (M : Host.Core) {s t : M.State} (k : Nat) (h : M.step s = .next t) :
    M.run (k + 1) s = M.run k t := by
  simp only [Host.Core.run, h]

/-- A run of the machine begins with its first step. -/
theorem run_succ {s t : State} (k : Nat) (h : step s = .next t) : core.run (k + 1) s = core.run k t :=
  core_run_succ core k h

/-- A string's octets written one after another, from index `i` on. -/
def State.writeOctets (r : Reg) (i : Nat) (text : List Octet) (s : State) : State :=
  match text with
  | [] => s
  | b :: text => (s.writeOctet r i b.toNat).writeOctets r (i + 1) text

theorem writeOctet_pending (r : Reg) (i v : Nat) (s : State) : (s.writeOctet r i v).pending = s.pending := by
  cases r <;> rfl

theorem withPending_writeOctet (r : Reg) (i v : Nat) (s : State) (rest : List HostAction) :
    { s.writeOctet r i v with pending := rest } = State.writeOctet r i v { s with pending := rest } := by
  cases r <;> rfl

theorem withPending_writeOctets (r : Reg) (rest : List HostAction) : ∀ (text : List Octet) (i : Nat) (s : State),
    { s.writeOctets r i text with pending := rest } = State.writeOctets r i text { s with pending := rest }
  | [], _, _ => rfl
  | b :: text, i, s => by
    rw [State.writeOctets, withPending_writeOctets r rest text, withPending_writeOctet]
    rfl

theorem writeOctets_pending (r : Reg) : ∀ (text : List Octet) (i : Nat) (s : State),
    (s.writeOctets r i text).pending = s.pending
  | [], _, _ => rfl
  | b :: text, i, s => by
    rw [State.writeOctets, writeOctets_pending r text, writeOctet_pending]

/-- Where an octet written changes one buffer, a string's octets written change it by the string. -/
theorem writeOctets_eq {r : Reg} {f : Memory → State}
    (hf : ∀ m i (b : Octet), (f m).writeOctet r i b.toNat = f (m.write i b)) :
    ∀ (text : List Octet) (i : Nat) (m : Memory), (f m).writeOctets r i text = f (m.writeRange i text)
  | [], _, _ => rfl
  | b :: text, i, m => by
    rw [State.writeOctets, hf, writeOctets_eq hf text]
    rfl

/-- The steps that perform the octet writes of a string. -/
theorem run_wrOctets {r : Reg} {n : Nat} (hr : regShape r = .buffer n) (k : Nat) (rest : List HostAction) :
    ∀ (text : List Octet) (i : Nat) (s : State), i + text.length ≤ n →
      s.pending = (text.zipIdx i).map (fun c => HostAction.wrOctet (regNumber r) c.2 c.1.toNat) ++ rest →
      core.run (text.length + k) s = core.run k (State.writeOctets r i text { s with pending := rest })
  | [], i, s, _, hpending => by
    change s.pending = rest at hpending
    subst hpending
    simp only [List.length_nil, Nat.zero_add, State.writeOctets]
  | b :: text, i, s, hfits, hpending => by
    rw [List.length_cons] at hfits ⊢
    have hstep := step_wrOctet (regOfNumber_regNumber r) hr (by omega) b.isLt hpending
    rw [Nat.add_right_comm, run_succ _ hstep, run_wrOctets hr k rest text (i + 1) _ (by omega)
      (writeOctet_pending ..), withPending_writeOctet]
    rfl

/-- What a buffer holds of a string and its length, read back by that length. -/
theorem Memory.readRange_written_length {w : Nat} {text : List Octet} (hw : text.length < 2 ^ w) (m : Memory) :
    (m.writeRange 0 text).readRange 0 (BitVec.ofNat w text.length).toNat = text := by
  rw [BitVec.toNat_ofNat, Nat.mod_eq_of_lt hw, Memory.readRange_writeRange]

/-- WRS as the steps of its writes, the octets and then the length (00_scope.md R17, log entry 11), for the buffer that
`f` puts into the state. -/
theorem run_wrsActions {buffer len : Reg} {n w : Nat} {s : State} {text : List Octet} {rest : List HostAction}
    (hlength : lengthRegister buffer = some len) (hbuffer : regShape buffer = .buffer n)
    (hlen : regShape len = .scalar w) (hfits : text.length ≤ n) (hw : text.length < 2 ^ w)
    (hpending : s.pending = wrsActions buffer text ++ rest) {f : Memory → State} {m : Memory}
    (hf : ∀ m i (b : Octet), (f m).writeOctet buffer i b.toNat = f (m.write i b))
    (hs : { s with pending := rest } = f m) :
    core.run (text.length + 1) s = .next ((f (m.writeRange 0 text)).writeScalar len text.length) := by
  rw [wrsActions, hlength, Option.map_some, Option.toList_some, List.append_assoc] at hpending
  rw [run_wrOctets hbuffer 1 _ text 0 s (by rwa [Nat.zero_add]) hpending,
    run_succ 0 (step_wr_scalar (regOfNumber_regNumber len) hlen hw (writeOctets_pending ..)), withPending_writeOctets,
    ← writeOctets_eq hf, ← hs]
  rfl

/-- Settles O14: for each of the three buffers, the writes of WRS leave the string and its length, and nothing else. -/
theorem wrsWritesTheString : Obligations.WrsWritesTheString := by
  refine ⟨fun s rest text htext hpending => ?_, fun s rest text htext hpending => ?_,
    fun s rest text htext hpending => ?_⟩
  · have hw : text.length < 2 ^ 4 := Nat.lt_succ_of_le htext
    have hrun := run_wrsActions (buffer := .dstid) (f := fun m => { s with dstid := m, pending := rest }) rfl rfl rfl
      htext hw hpending (by simp [State.writeOctet]) rfl
    exact ⟨_, hrun, Memory.readRange_written_length hw _, Nat.mod_eq_of_lt hw, rfl,
      fun _ => Memory.read_writeRange_of_ge _ _⟩
  · have hw : text.length < 2 ^ 4 := Nat.lt_succ_of_le htext
    have hrun := run_wrsActions (buffer := .srcid) (f := fun m => { s with srcid := m, pending := rest }) rfl rfl rfl
      htext hw hpending (by simp [State.writeOctet]) rfl
    exact ⟨_, hrun, Memory.readRange_written_length hw _, Nat.mod_eq_of_lt hw, rfl,
      fun _ => Memory.read_writeRange_of_ge _ _⟩
  · have hw : text.length < 2 ^ 9 := Nat.lt_succ_of_le htext
    have hrun := run_wrsActions (buffer := .payload) (f := fun m => { s with payload := m, pending := rest }) rfl rfl
      rfl htext hw hpending (by simp [State.writeOctet]) rfl
    exact ⟨_, hrun, Memory.readRange_written_length hw _, Nat.mod_eq_of_lt hw, rfl,
      fun _ => Memory.read_writeRange_of_ge _ _⟩

end Sys2Proof.Machine
end

section
/-!
PROOFS. How long an identifier can be, and the address field in closed form, with what follows of it (00_scope.md
section 4, 41_address_encoder.md sections 1 and 3).
-/

namespace Sys2Proof.Machine

/-! ### Identifiers -/

/-- Settles O17: the table, evaluated. -/
theorem parserCornerCases : Obligations.ParserCornerCases := by
  unfold Obligations.ParserCornerCases
  decide

theorem length_ssidText_le (n : Nat) : (ssidText n).length ≤ 2 := by
  unfold ssidText
  split <;> simp

/-- The longest identifiers are a callsign of six characters, the hyphen and two digits (00_scope.md R7). -/
theorem length_le_nine_of_validIdentifier {text : List Octet} (h : ValidIdentifier text) : text.length ≤ 9 := by
  obtain ⟨call, n, ⟨_, hcall, _⟩, ⟨rfl, _⟩ | ⟨_, rfl⟩⟩ := h
  · omega
  · have hssid := length_ssidText_le n
    simp only [List.length_append, List.length_singleton]
    omega

theorem parse_of_ten_le_length {text : List Octet} (h : 10 ≤ text.length) : parse text = none :=
  parse_eq_none_iff.mpr fun hvalid => by
    have := length_le_nine_of_validIdentifier hvalid
    omega

/-- Settles O18: no identifier of the grammar is that long, and what is taken of a text stays that long. -/
theorem longIdentifiersAreInvalid : Obligations.LongIdentifiersAreInvalid :=
  fun _ htext => ⟨parse_of_ten_le_length htext,
    fun _ hk => parse_of_ten_le_length (by rw [List.length_take]; exact le_min hk htext)⟩

/-! ### The two halves of an address field -/

/-- Settles O26: the four fields, evaluated. -/
theorem documentScenarios : Obligations.DocumentScenarios := by
  unfold Obligations.DocumentScenarios
  decide

/-- One station's seven octets before the shift: the padded callsign and the SSID (R132 steps 2 to 5). -/
def stationOctets (d : StationId) : List Octet := pad6 d.call ++ [BitVec.ofNat 8 d.ssid]

theorem addressOctets_eq (d s : StationId) : addressOctets d s = stationOctets d ++ stationOctets s := rfl

theorem length_stationOctets {d : StationId} (h : d.call.length ≤ 6) : (stationOctets d).length = 7 := by
  rw [stationOctets, List.length_append, length_pad6 h, List.length_singleton]

/-- A station's octets once shifted, its SSID octet being made by `f`. -/
def packedStation (f : Octet → Octet) (call : List Octet) (n : Nat) : List Octet :=
  (spacePadded call).map (fun c : Octet => c <<< (1 : Nat)) ++ [f (BitVec.ofNat 8 n)]

theorem length_packedStation {call : List Octet} (h : call.length ≤ 6) (f : Octet → Octet) (n : Nat) :
    (packedStation f call n).length = 7 := by
  rw [packedStation, List.length_append, List.length_map, ← pad6_eq_spacePadded, length_pad6 h, List.length_singleton]

theorem packAddress_eq_mapIdx (d s : StationId) (C M : Bool) :
    packAddress d s C M = (addressOctets d s).mapIdx (packedOctet C M) :=
  List.ext_getElem? fun k => by rw [getElem?_packAddress, List.getElem?_mapIdx]

theorem mapIdx_eq_map {l : List Octet} {f : Nat → Octet → Octet} {g : Octet → Octet} (h : ∀ k < l.length, f k = g) :
    l.mapIdx f = l.map g :=
  List.ext_getElem (by simp) fun k hk _ => by
    rw [List.getElem_mapIdx, List.getElem_map, h k (by simpa using hk)]

/-- Where a half's callsign octets are only shifted, the half is a packed station. -/
theorem mapIdx_stationOctets {d : StationId} (hd : d.call.length ≤ 6) {f : Nat → Octet → Octet}
    (hshift : ∀ k < 6, f k = fun u : Octet => u <<< (1 : Nat)) :
    (stationOctets d).mapIdx f = packedStation (f 6) d.call d.ssid := by
  rw [stationOctets, List.mapIdx_append, length_pad6 hd,
    mapIdx_eq_map (fun k hk => hshift k (by rwa [length_pad6 hd] at hk)), packedStation, pad6_eq_spacePadded]
  rfl

/-- The address field of two identifiers in the grammar, half by half (41_address_encoder.md section 1). -/
theorem encodeAddr_of_denotes {dst src dcall scall : List Octet} {dn sn : Nat} (C M : Bool)
    (hd : Denotes dst dcall dn) (hs : Denotes src scall sn) : encodeAddr dst src C M =
      some (packedStation (ssidOctet C) dcall dn ++
        packedStation (fun u => extensionOctet M (ssidOctet (!C) u)) scall sn) := by
  have hdlen : (StationId.mk dcall dn).call.length ≤ 6 := hd.1.2.1
  have hslen : (StationId.mk scall sn).call.length ≤ 6 := hs.1.2.1
  rw [encodeAddr, parse_of_denotes hd, parse_of_denotes hs]
  simp only [Option.some.injEq]
  rw [packAddress_eq_mapIdx, addressOctets_eq, List.mapIdx_append, length_stationOctets hdlen,
    mapIdx_stationOctets hdlen, mapIdx_stationOctets hslen]
  · rfl
  · exact fun k hk => packedOctet_of_ne (by omega) (by omega) C M
  · exact fun k hk => packedOctet_of_ne (by omega) (by omega) C M

/-! ### The field as numbers -/

/-- The characters of a padded callsign are ASCII, so that the shift loses no bit (R141). -/
theorem toNat_lt_of_mem_spacePadded {call : List Octet} (h : IsCallsign call) {c : Octet} (hc : c ∈ spacePadded call) :
    c.toNat < 128 := by
  rw [spacePadded, List.mem_append, List.mem_replicate] at hc
  obtain hc | ⟨_, rfl⟩ := hc
  · have hchar : IsCallChar c := h.2.2 c hc
    omega
  · decide

theorem toNat_shiftLeft_one {c : Octet} (h : c.toNat < 128) : (c <<< (1 : Nat)).toNat = 2 * c.toNat := by
  rw [BitVec.toNat_shiftLeft, Nat.shiftLeft_eq]
  omega

theorem shiftLeft_one_shiftRight_one {c : Octet} (h : c.toNat < 128) : (c <<< (1 : Nat)) >>> (1 : Nat) = c :=
  BitVec.eq_of_toNat_eq (by rw [BitVec.toNat_ushiftRight, toNat_shiftLeft_one h, Nat.shiftRight_eq_div_pow]; omega)

/-- Both forms of an SSID octet as numbers, and what comes back of the SSID, for the sixteen SSIDs (R133, R142). -/
theorem ssidOctet_values : ∀ n ≤ 15, ∀ B : Bool,
    (ssidOctet B (BitVec.ofNat 8 n)).toNat = 128 * B.toNat + 0x60 + 2 * n ∧
    ((ssidOctet B (BitVec.ofNat 8 n)) >>> (1 : Nat) &&& 0x0F#8).toNat = n := by
  decide

theorem extensionOctet_values : ∀ n ≤ 15, ∀ B M : Bool,
    (extensionOctet M (ssidOctet B (BitVec.ofNat 8 n))).toNat = 128 * B.toNat + 0x60 + 2 * n + (1 - M.toNat) ∧
    ((extensionOctet M (ssidOctet B (BitVec.ofNat 8 n))) >>> (1 : Nat) &&& 0x0F#8).toNat = n := by
  decide

theorem ssid_le_of_denotes {text call : List Octet} {n : Nat} (h : Denotes text call n) : n ≤ 15 := by
  obtain ⟨_, ⟨_, rfl⟩ | ⟨hn, _⟩⟩ := h
  · decide
  · exact hn

theorem map_toNat_packedStation {call : List Octet} (h : IsCallsign call) (f : Octet → Octet) (n : Nat) :
    (packedStation f call n).map BitVec.toNat =
      (spacePadded call).map (fun c => 2 * c.toNat) ++ [(f (BitVec.ofNat 8 n)).toNat] := by
  rw [packedStation, List.map_append, List.map_map]
  congr 1
  exact List.map_congr_left fun c hc => toNat_shiftLeft_one (toNat_lt_of_mem_spacePadded h hc)

/-- Settles O22: each half's octets as numbers. -/
theorem addressFieldClosedForm : Obligations.AddressFieldClosedForm := by
  refine ⟨fun dst src dcall dn scall sn C M hd hs => ⟨_, encodeAddr_of_denotes C M hd hs, ?_⟩,
    fun _ _ C M => encodeAddr_of_not_valid C M⟩
  rw [List.map_append, map_toNat_packedStation hd.1, map_toNat_packedStation hs.1,
    (ssidOctet_values dn (ssid_le_of_denotes hd) C).1, (extensionOctet_values sn (ssid_le_of_denotes hs) (!C) M).1]
  cases C <;> rfl

/-! ### The round trip -/

theorem map_shiftRight_packedStation {call : List Octet} (h : IsCallsign call) :
    ((spacePadded call).map (fun c : Octet => c <<< (1 : Nat))).map (fun c : Octet => c >>> (1 : Nat)) =
      spacePadded call := by
  rw [List.map_map]
  exact (List.map_congr_left (g := id) fun c hc =>
    shiftLeft_one_shiftRight_one (toNat_lt_of_mem_spacePadded h hc)).trans (List.map_id _)

/-- Seven octets of a buffer that are a packed station: the shifted callsign and the SSID octet. -/
theorem station_of_readRange {m : Memory} {i n : Nat} {f : Octet → Octet} {call : List Octet} (hcall : call.length ≤ 6)
    (h : m.readRange i 7 = packedStation f call n) :
    m.readRange i 6 = (spacePadded call).map (fun c : Octet => c <<< (1 : Nat)) ∧
      m.read (i + 6) = f (BitVec.ofNat 8 n) := by
  rw [packedStation, Memory.readRange_add m i 6 1] at h
  obtain ⟨hchars, hssid⟩ := List.append_inj h (by
    rw [Memory.length_readRange, List.length_map, ← pad6_eq_spacePadded, length_pad6 hcall])
  exact ⟨hchars, List.singleton_inj.mp hssid⟩

/-- An ENCADDR or MKFRM on identifiers in the grammar leaves their field in ADDR (R134, 44_frame_assembler.md R194). -/
theorem addr_after_encoding {i : Instr} {M C : Bool} {s t : State} {a : List Octet}
    (hi : i = .encaddr M C ∨ ∃ L X, i = .mkfrm L X M C) (ha : encodeAddr (destination s) (source s) C M = some a)
    (h : exec i s = .next t) : t.addr = s.addr.writeRange 0 a := by
  obtain rfl | ⟨L, X, rfl⟩ := hi
  · obtain rfl := Host.Outcome.next.inj ((execEncaddr_some ha).symm.trans h)
    rfl
  · obtain rfl := Host.Outcome.next.inj ((execMkfrm_some ha).symm.trans h)
    rfl

/-- Settles O24: each half of ADDR is a packed station, which the shift to the right unpacks. -/
theorem addressFieldRoundTrip : Obligations.AddressFieldRoundTrip := by
  intro i M C s t dcall dn scall sn hi hd hs h
  have hencodes := encodeAddr_of_denotes C M hd hs
  have hfield := Memory.readRange_writeRange s.addr
    (packedStation (ssidOctet C) dcall dn ++ packedStation (fun u => extensionOctet M (ssidOctet (!C) u)) scall sn)
  rw [← addr_after_encoding hi hencodes h, (encodeAddr_some hencodes).1, Memory.readRange_add _ 0 7 7] at hfield
  obtain ⟨hdst, hsrc⟩ := List.append_inj hfield (by rw [Memory.length_readRange, length_packedStation hd.1.2.1])
  obtain ⟨hdcall, hdssid⟩ := station_of_readRange hd.1.2.1 hdst
  obtain ⟨hscall, hsssid⟩ := station_of_readRange hs.1.2.1 hsrc
  refine ⟨?_, ?_, ?_, ?_⟩
  · rw [hdcall, map_shiftRight_packedStation hd.1]
  · rw [hscall, map_shiftRight_packedStation hs.1]
  · rw [hdssid, (ssidOctet_values dn (ssid_le_of_denotes hd) C).2]
  · rw [hsssid, (extensionOctet_values sn (ssid_le_of_denotes hs) (!C) M).2]

/-! ### How the field depends on its inputs -/

theorem denotes_of_encodeAddr {dst src a : List Octet} {C M : Bool} (h : encodeAddr dst src C M = some a) :
    ∃ dcall dn scall sn, Denotes dst dcall dn ∧ Denotes src scall sn := by
  obtain ⟨_, d, s, hd, hs, _⟩ := encodeAddr_some h
  exact ⟨d.call, d.ssid, s.call, s.ssid, denotes_of_parse hd, denotes_of_parse hs⟩

section
variable {call : List Octet} (hcall : call.length ≤ 6) (f g : Octet → Octet) (n k : Nat)
include hcall

theorem getD_packedStation_append (rest : List Octet) : (packedStation f call n ++ rest).getD k 0x00#8 =
    if k < 7 then (packedStation f call n).getD k 0x00#8 else rest.getD (k - 7) 0x00#8 := by
  split
  next hk => rw [List.getD_append _ _ _ _ (by rwa [length_packedStation hcall])]
  next hk => rw [List.getD_append_right _ _ _ _ (by rw [length_packedStation hcall]; omega), length_packedStation hcall]

theorem getD_packedStation : (packedStation f call n).getD k 0x00#8 =
    if k = 6 then f (BitVec.ofNat 8 n)
    else ((spacePadded call).map (fun c : Octet => c <<< (1 : Nat))).getD k 0x00#8 := by
  have hlen : ((spacePadded call).map (fun c : Octet => c <<< (1 : Nat))).length = 6 := by
    rw [List.length_map, ← pad6_eq_spacePadded, length_pad6 hcall]
  unfold packedStation
  split
  next hk => rw [hk, List.getD_append_right _ _ _ _ hlen.le, hlen]; rfl
  next hk =>
    obtain hlt | hgt := Nat.lt_or_gt_of_ne hk
    · rw [List.getD_append _ _ _ _ (by rwa [hlen])]
    · rw [List.getD_eq_default _ _ (by rw [List.length_append, hlen]; exact hgt), List.getD_eq_default _ _ (by omega)]

theorem getD_packedStation_xor : (packedStation f call n).getD k 0x00#8 ^^^ (packedStation g call n).getD k 0x00#8 =
    if k = 6 then f (BitVec.ofNat 8 n) ^^^ g (BitVec.ofNat 8 n) else 0x00#8 := by
  rw [getD_packedStation hcall, getD_packedStation hcall]
  split
  · rfl
  · exact BitVec.xor_self

end

/-- C is bit 7 of an SSID octet, and nothing else of it (R138). -/
theorem ssidOctet_xor_not (B : Bool) (u : Octet) : ssidOctet B u ^^^ ssidOctet (!B) u = 0x80#8 := by
  refine BitVec.eq_of_getLsbD_eq fun i hi => ?_
  cases B <;> interval_cases i <;> simp [ssidOctet]

/-- Step 9 does not touch the bits in which two octets differ, but for bit 0. -/
theorem extensionOctet_xor (M : Bool) (u v : Octet) :
    extensionOctet M u ^^^ extensionOctet M v = (u ^^^ v) &&& 0xFE#8 := by
  refine BitVec.eq_of_getLsbD_eq fun i hi => ?_
  cases M <;> interval_cases i <;> simp [extensionOctet]

/-- M is bit 0 of octet 13, and nothing else of it (R140). -/
theorem extensionOctet_false_xor_true (u : Octet) : extensionOctet false u ^^^ extensionOctet true u = 0x01#8 := by
  refine BitVec.eq_of_getLsbD_eq fun i hi => ?_
  interval_cases i <;> simp [extensionOctet]

/-- Whatever the SSID, bits 7:5 and 0 of an SSID octet are the same (R133). -/
theorem ssidOctet_xor_and (B : Bool) (u v : Octet) : (ssidOctet B u ^^^ ssidOctet B v) &&& 0xE1#8 = 0x00#8 := by
  refine BitVec.eq_of_getLsbD_eq fun i hi => ?_
  cases B <;> interval_cases i <;> simp [ssidOctet]

theorem extensionOctet_xor_and (B M : Bool) (u v : Octet) :
    (extensionOctet M (ssidOctet B u) ^^^ extensionOctet M (ssidOctet B v)) &&& 0xE1#8 = 0x00#8 := by
  rw [extensionOctet_xor, BitVec.and_assoc, BitVec.and_comm 0xFE#8, ← BitVec.and_assoc, ssidOctet_xor_and]
  rfl

/-- Changing C flips bit 7 of octets 6 and 13. -/
theorem encodeAddr_xor_C {dst src a b : List Octet} {M : Bool} (ha : encodeAddr dst src false M = some a)
    (hb : encodeAddr dst src true M = some b) (k : Nat) :
    a.getD k 0x00#8 ^^^ b.getD k 0x00#8 = if k = 6 ∨ k = 13 then 0x80#8 else 0x00#8 := by
  obtain ⟨dcall, dn, scall, sn, hd, hs⟩ := denotes_of_encodeAddr ha
  obtain rfl := Option.some.inj (ha.symm.trans (encodeAddr_of_denotes false M hd hs))
  obtain rfl := Option.some.inj (hb.symm.trans (encodeAddr_of_denotes true M hd hs))
  rw [getD_packedStation_append hd.1.2.1, getD_packedStation_append hd.1.2.1]
  by_cases hk : k < 7
  · rw [if_pos hk, if_pos hk, getD_packedStation_xor hd.1.2.1]
    exact if_congr (by omega) (ssidOctet_xor_not false _) rfl
  · rw [if_neg hk, if_neg hk, getD_packedStation_xor hs.1.2.1, extensionOctet_xor]
    exact if_congr (by omega) (congrArg (· &&& 0xFE#8) (ssidOctet_xor_not true _)) rfl

/-- Changing M flips bit 0 of octet 13. -/
theorem encodeAddr_xor_M {dst src a b : List Octet} {C : Bool} (ha : encodeAddr dst src C false = some a)
    (hb : encodeAddr dst src C true = some b) (k : Nat) :
    a.getD k 0x00#8 ^^^ b.getD k 0x00#8 = if k = 13 then 0x01#8 else 0x00#8 := by
  obtain ⟨dcall, dn, scall, sn, hd, hs⟩ := denotes_of_encodeAddr ha
  obtain rfl := Option.some.inj (ha.symm.trans (encodeAddr_of_denotes C false hd hs))
  obtain rfl := Option.some.inj (hb.symm.trans (encodeAddr_of_denotes C true hd hs))
  rw [getD_packedStation_append hd.1.2.1, getD_packedStation_append hd.1.2.1]
  by_cases hk : k < 7
  · rw [if_pos hk, if_pos hk, BitVec.xor_self, if_neg (by omega)]
  · rw [if_neg hk, if_neg hk, getD_packedStation_xor hs.1.2.1]
    exact if_congr (by omega) (extensionOctet_false_xor_true _) rfl

/-- Settles O25: each input has its own octets of the packed halves, and its own bits of those. -/
theorem addressFieldDependence : Obligations.AddressFieldDependence := by
  refine ⟨fun _ _ _ _ _ k ha hb => encodeAddr_xor_C ha hb k, fun _ _ _ _ _ k ha hb => encodeAddr_xor_M ha hb k, ?_, ?_⟩
  · intro d d' src C M a b call call' n n' hd hd' ha hb
    obtain ⟨_, _, scall, sn, _, hs⟩ := denotes_of_encodeAddr ha
    obtain rfl := Option.some.inj (ha.symm.trans (encodeAddr_of_denotes C M hd hs))
    obtain rfl := Option.some.inj (hb.symm.trans (encodeAddr_of_denotes C M hd' hs))
    simp only [getD_packedStation_append hd.1.2.1, getD_packedStation_append hd'.1.2.1, getD_packedStation hd.1.2.1,
      getD_packedStation hd'.1.2.1]
    refine ⟨fun k hk => ?_, ?_, ssidOctet_xor_and C _ _, ?_⟩
    · rw [if_neg (by omega), if_neg (by omega)]
    · rintro rfl
      rfl
    · rintro rfl k hk
      have hchars : k ≠ 6 := Nat.ne_of_lt hk
      simp only [if_pos (Nat.lt_succ_of_lt hk), if_neg hchars]
  · intro dst s s' C M a b call call' n n' hs hs' ha hb
    obtain ⟨dcall, dn, _, _, hd, _⟩ := denotes_of_encodeAddr ha
    obtain rfl := Option.some.inj (ha.symm.trans (encodeAddr_of_denotes C M hd hs))
    obtain rfl := Option.some.inj (hb.symm.trans (encodeAddr_of_denotes C M hd hs'))
    simp only [getD_packedStation_append hd.1.2.1, getD_packedStation hs.1.2.1, getD_packedStation hs'.1.2.1]
    refine ⟨fun k hk => ?_, ?_, extensionOctet_xor_and (!C) M _ _, ?_⟩
    · rw [if_pos hk, if_pos hk]
    · rintro rfl
      rfl
    · rintro rfl k hk hk'
      rw [if_neg (by omega), if_neg (by omega), if_neg (by omega), if_neg (by omega)]

end Sys2Proof.Machine
end

section
/-!
PROOFS. How the two control-octet constructions compare, the range test on a sequence number, and the frame-type bit
(42_control_field.md section 2).
-/

namespace Sys2Proof.Machine

/-! ### The two constructions -/

theorem seqNumber_eq_zero_iff (x : Int) : seqNumber x = 0 ↔ x = 0 ∨ ¬ (0 ≤ x ∧ x < 8) := by
  have hcoe := coe_seqNumber x
  split at hcoe <;> omega

/-- A valid send number makes the literal octet that of the send number alone, so the other two fields must be 0. -/
theorem ctlLiteral_eq_ctlCombined_iff (nr ns : Int) (pf : Bool) : ctlLiteral nr ns pf = ctlCombined nr ns pf ↔
    ¬ (0 ≤ ns ∧ ns < 8) ∨ (pf = false ∧ (nr = 0 ∨ ¬ (0 ≤ nr ∧ nr < 8))) := by
  rw [← seqNumber_eq_zero_iff, ← inRange_iff]
  cases hns : inRange ns with
  | false => simp [ctlLiteral_of_not_inRange nr pf hns]
  | true =>
    have hzero : seqNumber 0 = 0 := rfl
    rw [ctlLiteral_of_inRange nr pf hns, ← BitVec.toNat_inj, toNat_ctlCombined, toNat_ctlCombined, hzero]
    cases pf <;> simp

/-- Settles O29: the agreement, and the table evaluated. -/
theorem constructionsAgreeExactlyWhen : Obligations.ConstructionsAgreeExactlyWhen :=
  ⟨ctlLiteral_eq_ctlCombined_iff, rfl⟩

/-! ### The range test -/

theorem ushiftRight_three_eq_zero_iff {w : Nat} (v : BitVec w) : v >>> (3 : Nat) = 0#w ↔ v.toNat < 8 := by
  rw [← BitVec.toNat_inj, BitVec.toNat_ushiftRight, Nat.shiftRight_eq_div_pow, BitVec.toNat_zero]
  omega

theorem sixteen_le_two_pow {w : Nat} (hw : 4 ≤ w) : 16 ≤ 2 ^ w :=
  Nat.pow_le_pow_right (n := 2) Nat.two_pos hw

/-- Settles O30: below 8 the top bit of a register of four or more bits is 0, so the signed value is the unsigned. -/
theorem sequenceNumberRangeTest : Obligations.SequenceNumberRangeTest := by
  intro w v hw
  have hpow := sixteen_le_two_pow hw
  have hlt := v.isLt
  have hsigned : signed v = if 2 * v.toNat < 2 ^ w then (v.toNat : Int) else (v.toNat : Int) - (2 ^ w : Nat) :=
    BitVec.toInt_eq_toNat_cond v
  rw [ushiftRight_three_eq_zero_iff, hsigned, BitVec.extractLsb'_toNat, Nat.shiftRight_zero]
  split <;> omega

/-! ### The frame-type bit -/

/-- Every field lies above bit 0, so the octet is even (R154). -/
theorem ctlCombined_lowBit (nr ns : Int) (pf : Bool) : (ctlCombined nr ns pf).getLsbD 0 = false := by
  rw [BitVec.getLsbD, Nat.testBit_zero, toNat_ctlCombined, decide_eq_false_iff_not]
  omega

theorem ctlLiteral_lowBit (nr ns : Int) (pf : Bool) : (ctlLiteral nr ns pf).getLsbD 0 = false := by
  cases hns : inRange ns with
  | false => rw [ctlLiteral_of_not_inRange nr pf hns, ctlCombined_lowBit]
  | true => rw [ctlLiteral_of_inRange nr pf hns, ctlCombined_lowBit]

theorem controlOctet_lowBit (X : Bool) (s : State) : (controlOctet X s).getLsbD 0 = false := by
  cases X
  · exact ctlLiteral_lowBit ..
  · exact ctlCombined_lowBit ..

/-- A command that writes CTRL and ends OK has written a control octet of the session to it. -/
theorem ctrl_of_exec_ok {i : Instr} {s t : State} (hi : i = .bldctl ∨ i = .bldctlc ∨ ∃ L X M C, i = .mkfrm L X M C)
    (h : exec i s = .next t) (hok : t.err = 0#2) : ∃ X, t.ctrl = controlOctet X s := by
  obtain rfl | rfl | ⟨L, X, M, C, rfl⟩ := hi
  · exact ⟨false, by rw [← Host.Outcome.next.inj h]; rfl⟩
  · exact ⟨true, by rw [← Host.Outcome.next.inj h]; rfl⟩
  · obtain ⟨a, _, rfl⟩ | ⟨_, rfl⟩ := exec_mkfrm_cases h
    · exact ⟨X, rfl⟩
    · exact absurd hok (by simp)

/-- Settles O31: both constructions are even, and CTRL holds one of them. -/
theorem frameTypeBitIsZero : Obligations.FrameTypeBitIsZero := by
  refine ⟨fun nr ns pf => ⟨ctlLiteral_lowBit nr ns pf, ctlCombined_lowBit nr ns pf⟩, fun i s t hi h hok => ?_⟩
  obtain ⟨X, hctrl⟩ := ctrl_of_exec_ok hi h hok
  rw [hctrl, controlOctet_lowBit]

end Sys2Proof.Machine
end

section
/-!
PROOFS. The CRC: its check values, FCS, that it is the CRC of its four parameters, and that it tells bodies apart that
differ in one bit (43_checksum.md).
-/

namespace Sys2Proof.Machine

/-! ### Values -/

set_option maxRecDepth 20000 in
/-- Settles O34: the eight sequences, evaluated. -/
theorem crcCheckValues : Obligations.CrcCheckValues := by
  unfold Obligations.CrcCheckValues
  decide

set_option maxRecDepth 20000 in
/-- Settles O33: the two octets are the quotient and the remainder by 256, and the example evaluated. -/
theorem fcsOctetsHighFirst : Obligations.FcsOctetsHighFirst := by
  refine ⟨fun text => ?_, by decide⟩
  have hlt := (crc16X25 text).isLt
  rw [fcsOctets, highFirst_eq, List.map_cons, List.map_singleton, BitVec.toNat_ofNat, BitVec.toNat_ofNat,
    Nat.mod_eq_of_lt (by omega), Nat.mod_eq_of_lt (by omega)]

theorem encode_fcs (S : Bool) : encode (.fcs S) = if S then 0b10010000#8 else 0b10000000#8 := by
  cases S <;> rfl

theorem exec_fcs (S : Bool) (s : State) :
    exec (.fcs S) s = .next { s with fcsr := crc16X25 (fcsBody S s), err := 0#2 } := rfl

/-- FCS of a body whose octets are known. -/
theorem exec_fcs_of_body {S : Bool} {s : State} {body : List Octet} {c : Word16} (hbody : fcsBody S s = body)
    (hc : crc16X25 body = c) : exec (.fcs S) s = .next { s with fcsr := c, err := 0#2 } := by
  rw [exec_fcs, hbody, hc]

theorem payloadOctets_of_paylen_zero {s : State} (h : s.paylen = 0#9) : payloadOctets s = [] := by
  rw [payloadOctets, h]
  rfl

set_option maxRecDepth 20000 in
/-- Settles O32: FCS is the CRC of the selected body, and the examples' CRCs evaluated. -/
theorem fcsWritesTheCrcOfItsBody : Obligations.FcsWritesTheCrcOfItsBody := by
  refine ⟨fun S => encode_fcs S ▸ decode_encode _, exec_fcs false, exec_fcs true, fun s hlen => ?_, fun s hpay => ?_,
    fun s haddr hctrl hpid hlen => ?_⟩
  · exact exec_fcs_of_body (S := false) (payloadOctets_of_paylen_zero hlen) (by decide)
  · exact exec_fcs_of_body (S := false) hpay (by decide)
  · refine exec_fcs_of_body (S := true) (body := [0x9C#8, 0x94#8, 0x6E#8, 0xA0#8, 0x40#8, 0x40#8, 0xE0#8] ++
      [0x9C#8, 0x6E#8, 0x98#8, 0x8A#8, 0x9A#8, 0x40#8, 0x61#8] ++ [0x00#8] ++ [0xF0#8] ++ []) ?_ (by decide)
    rw [fcsBody, if_pos rfl, frameBody, addressField, haddr, hctrl, hpid, payloadOctets_of_paylen_zero hlen]

/-! ### One bit into the right-shifting register -/

/-- One inner step of R171 that takes in a bit of its own. -/
def crcBit (c : Word16) (bit : Bool) : Word16 :=
  if c.getLsbD 0 ^^ bit then (c >>> 1) ^^^ 0x8408#16 else c >>> 1

/-- An inner step on a register into which `x` was exclusive-ored takes in bit 0 of `x` and moves the rest of it. -/
theorem crcShift_xor (c x : Word16) : crcShift (c ^^^ x) = crcBit c (x.getLsbD 0) ^^^ (x >>> 1) := by
  unfold crcShift crcBit
  rw [BitVec.getLsbD_xor, BitVec.ushiftRight_xor_distrib]
  split
  · rw [BitVec.xor_assoc, BitVec.xor_comm (x >>> 1), BitVec.xor_assoc]
  · rfl

/-- `n` inner steps take in the `n` bits of `x`, the least significant first. -/
theorem crcShifts_xor (n : Nat) : ∀ c x : Word16, x.toNat < 2 ^ n →
    crcShifts n (c ^^^ x) = ((List.range n).map x.getLsbD).foldl crcBit c := by
  induction n with
  | zero =>
    intro c x hx
    have hzero : x = 0#16 := BitVec.eq_of_toNat_eq (by rw [BitVec.toNat_zero]; omega)
    rw [hzero, BitVec.xor_zero]
    rfl
  | succ n ih =>
    intro c x hx
    have hrest : (x >>> 1).toNat < 2 ^ n := by
      rw [BitVec.toNat_ushiftRight, Nat.shiftRight_eq_div_pow]
      omega
    have hbits : (List.range n).map (x >>> 1).getLsbD = (List.range n).map (x.getLsbD ∘ Nat.succ) :=
      List.map_congr_left fun i _ => by
        rw [BitVec.getLsbD_ushiftRight, Function.comp, Nat.succ_eq_add_one, Nat.add_comm]
    rw [crcShifts, crcShift_xor, ih _ _ hrest, hbits, List.range_succ_eq_map, List.map_cons, List.map_map,
      List.foldl_cons]

/-- An octet goes into the CRC register bit by bit (R171). -/
theorem crcOctet_eq_foldl (c : Word16) (b : Octet) : crcOctet c b = (reflectedBits b).foldl crcBit c := by
  have hlt : (b.setWidth 16).toNat < 2 ^ 8 := by
    have := b.isLt
    rw [BitVec.toNat_setWidth]
    omega
  have hbits : (List.range 8).map (b.setWidth 16).getLsbD = reflectedBits b := by
    simp [reflectedBits, List.range_succ]
  rw [crcOctet, crcShifts_xor 8 c _ hlt, hbits]

theorem crc16X25_eq_foldl (text : List Octet) :
    crc16X25 text = (text.flatMap reflectedBits).foldl crcBit 0xFFFF#16 ^^^ 0xFFFF#16 := by
  rw [crc16X25, funext₂ crcOctet_eq_foldl, List.foldl_flatMap]

/-! ### The register mirrored -/

theorem reverse_xor (x y : Word16) : (x ^^^ y).reverse = x.reverse ^^^ y.reverse :=
  BitVec.eq_of_getLsbD_eq fun i _ => by simp only [BitVec.getLsbD_reverse, BitVec.getLsbD_xor, BitVec.getMsbD_xor]

theorem reverse_ushiftRight_one (c : Word16) : (c >>> 1).reverse = c.reverse <<< 1 :=
  BitVec.eq_of_getLsbD_eq fun i hi => by
    simp only [BitVec.getLsbD_reverse, BitVec.getMsbD_ushiftRight, BitVec.getLsbD_shiftLeft, hi, decide_true,
      Bool.true_and]

/-- Mirrored, the right-shifting step is the left-shifting one of the polynomial (R170). -/
theorem reverse_crcBit (c : Word16) (bit : Bool) : (crcBit c bit).reverse = crcStepByPolynomial c.reverse bit := by
  have hpoly : (0x8408#16).reverse = 0x1021#16 := by decide
  unfold crcBit crcStepByPolynomial
  rw [BitVec.msb_reverse]
  split
  · rw [reverse_xor, reverse_ushiftRight_one, hpoly]
  · rw [reverse_ushiftRight_one]

theorem reverse_foldl_crcBit (bits : List Bool) (c : Word16) :
    (bits.foldl crcBit c).reverse = bits.foldl crcStepByPolynomial c.reverse := by
  induction bits generalizing c with
  | nil => rfl
  | cons bit bits ih => rw [List.foldl_cons, ih, reverse_crcBit, List.foldl_cons]

/-- Settles O35: the register of the four parameters is the right-shifting one mirrored, and is read out mirrored. -/
theorem crcRealisesItsParameters : Obligations.CrcRealisesItsParameters := by
  intro text
  have hinit : (0xFFFF#16).reverse = 0xFFFF#16 := by decide
  rw [crc16X25_eq_foldl, crcByParameters, ← hinit, ← reverse_foldl_crcBit, BitVec.reverse_reverse_eq, hinit]

/-! ### One changed bit -/

/-- The bit that goes out decides the top bit of the result, so nothing is lost. -/
theorem crcShift_injective : Function.Injective crcShift := by
  have hmsb (c : Word16) : (crcShift c).msb = c.getLsbD 0 := by
    unfold crcShift
    split
    next h => rw [h, BitVec.msb_xor, BitVec.msb_ushiftRight]; rfl
    next h => rw [Bool.not_eq_true] at h; rw [h]; simp
  intro c d h
  have hlow : c.getLsbD 0 = d.getLsbD 0 := by rw [← hmsb, ← hmsb, h]
  have hhigh : c >>> 1 = d >>> 1 := by
    unfold crcShift at h
    rw [hlow] at h
    split at h
    · exact (BitVec.xor_left_inj _).mp h
    · exact h
  refine BitVec.eq_of_getLsbD_eq fun i _ => ?_
  cases i with
  | zero => exact hlow
  | succ i =>
    have hbit := congrArg (·.getLsbD i) hhigh
    simpa only [BitVec.getLsbD_ushiftRight, Nat.add_comm 1 i] using hbit

theorem crcShifts_injective (n : Nat) : Function.Injective (crcShifts n) := by
  induction n with
  | zero => exact fun _ _ => id
  | succ n ih => exact fun _ _ h => crcShift_injective (ih h)

/-- Neither the register nor the octet can be told apart wrongly. -/
theorem crcOctet_inj_left {c d : Word16} {b : Octet} (h : crcOctet c b = crcOctet d b) : c = d :=
  (BitVec.xor_left_inj _).mp (crcShifts_injective 8 h)

theorem crcOctet_inj_right {c : Word16} {a b : Octet} (h : crcOctet c a = crcOctet c b) : a = b := by
  have hwide : a.setWidth 16 = b.setWidth 16 := (BitVec.xor_right_inj _).mp (crcShifts_injective 8 h)
  have hback := congrArg (BitVec.setWidth 8) hwide
  simpa using hback

theorem foldl_crcOctet_injective (text : List Octet) : Function.Injective (fun c => text.foldl crcOctet c) := by
  induction text with
  | nil => exact fun _ _ => id
  | cons b text ih => exact fun _ _ h => crcOctet_inj_left (ih h)

/-- Bodies that differ in one octet have different CRCs (43_checksum.md section 3). -/
theorem crc16X25_ne_of_octet_ne (before after : List Octet) {a b : Octet} (h : a ≠ b) :
    crc16X25 (before ++ [a] ++ after) ≠ crc16X25 (before ++ [b] ++ after) := by
  intro heq
  simp only [crc16X25, List.foldl_append, List.foldl_cons, List.foldl_nil, BitVec.xor_left_inj] at heq
  exact h (crcOctet_inj_right (foldl_crcOctet_injective after heq))

theorem xor_bit_ne (c : Octet) {k : Nat} (hk : k < 8) : c ≠ c ^^^ (0x01#8 <<< k) := by
  intro h
  have hbit := congrArg (·.getLsbD k) h
  simp [hk] at hbit

/-- Settles O36: changing a bit changes the octet. -/
theorem singleBitChangeChangesTheCrc : Obligations.SingleBitChangeChangesTheCrc :=
  fun before after c _ hk => crc16X25_ne_of_octet_ne before after (xor_bit_ne c hk)

end Sys2Proof.Machine
end

section
/-!
PROOFS. Where the parts of a frame stand, the worked frames, the three-command sequence, and the commands of the reset
state (30_encoding.md section 2, 44_frame_assembler.md sections 2 to 4, 70_reset_and_hazards.md section 1).
-/

namespace Sys2Proof.Machine

/-! ### The longest frame -/

theorem two_pow_add_nineteen_lt {w : Nat} : 2 ^ w + 19 < 2 ^ max (w + 1) 6 := by
  obtain hw | hw := Nat.lt_or_ge w 5
  · have hpow : 2 ^ w ≤ 2 ^ 4 := Nat.pow_le_pow_right Nat.two_pos (Nat.le_of_lt_succ hw)
    rw [max_eq_right (by omega)]
    omega
  · have hpow : 2 ^ 5 ≤ 2 ^ w := Nat.pow_le_pow_right Nat.two_pos hw
    rw [max_eq_left (by omega), Nat.pow_succ]
    omega

/-- Settles O48: a longest frame is nineteen octets more than the largest PAYLEN plus one. -/
theorem frameLengthAlwaysFits : Obligations.FrameLengthAlwaysFits := by
  intro w _
  have hpos : 0 < 2 ^ w := Nat.two_pow_pos w
  have hlt := two_pow_add_nineteen_lt (w := w)
  simp only [Config.frmMaxOf, Config.payMaxOf, Config.frmlenWOf]
  refine ⟨by omega, by omega, fun hw => max_eq_left (by omega), fun hw => max_eq_right (by omega)⟩

/-! ### The frame a command leaves -/

/-- ASMFRM always ends OK, with the frame of the registers' own body. -/
theorem exec_asmfrm_frame {L : Bool} {s t : State} (h : exec (.asmfrm L) s = .next t) :
    t.err = 0#2 ∧ t.fcsr = crc16X25 (frameBody s) ∧ t.frmlen.toNat = (frameOctets L (frameBody s)).length ∧
    t.frame.readRange 0 t.frmlen.toNat = frameOctets L (frameBody s) := by
  obtain ⟨t', h', hstate, hlen, hframe, _⟩ := asmfrmWritesTheFrame.2 L s _ rfl
  obtain rfl := Host.Outcome.next.inj (h.symm.trans h')
  exact ⟨by rw [hstate], by rw [hstate]; rfl, hlen, hframe⟩

/-- An ASMFRM or MKFRM that ends OK leaves the frame of the body that ADDR, CTRL, PID and the payload then make
(44_frame_assembler.md R190, R194). -/
theorem frame_of_exec_ok {i : Instr} {L : Bool} {s t : State} (hi : i = .asmfrm L ∨ ∃ X M C, i = .mkfrm L X M C)
    (h : exec i s = .next t) (hok : t.err = 0#2) :
    t.frmlen.toNat = (frameOctets L (bodyOf (addressField t) t.ctrl s.pid (payloadOctets s))).length ∧
    t.frame.readRange 0 t.frmlen.toNat = frameOctets L (bodyOf (addressField t) t.ctrl s.pid (payloadOctets s)) ∧
    t.fcsr = crc16X25 (bodyOf (addressField t) t.ctrl s.pid (payloadOctets s)) := by
  obtain rfl | ⟨X, M, C, rfl⟩ := hi
  · obtain ⟨_, hfcsr, hlen, hframe⟩ := exec_asmfrm_frame h
    obtain rfl := Host.Outcome.next.inj h
    exact ⟨hlen, hframe, hfcsr⟩
  · obtain ⟨a, ha, _⟩ := addr_of_exec_ok (.inr ⟨L, X, rfl⟩) h hok
    obtain ⟨t', h', hstate, haddr, _, hlen, hframe, _⟩ := mkfrmBuildsTheWholeFrame.2.1 L X M C s a _ _ ha rfl rfl
    obtain rfl := Host.Outcome.next.inj (h.symm.trans h')
    have hctrl : t.ctrl = controlOctet X s := by rw [hstate]; rfl
    have hfcsr : t.fcsr = crc16X25 (bodyOf a (controlOctet X s) s.pid (payloadOctets s)) := by rw [hstate]; rfl
    rw [addressField, haddr, hctrl]
    exact ⟨hlen, hframe, hfcsr⟩

/-! ### The parts of a frame in a buffer -/

theorem Memory.readRange_append_inj {m : Memory} {i n k : Nat} {a b : List Octet}
    (h : m.readRange i (n + k) = a ++ b) (ha : a.length = n) : m.readRange i n = a ∧ m.readRange (i + n) k = b := by
  rw [Memory.readRange_add] at h
  exact List.append_inj h (by rw [Memory.length_readRange, ha])

theorem Memory.read_of_readRange_one {m : Memory} {i : Nat} {b : Octet} (h : m.readRange i 1 = [b]) : m.read i = b :=
  List.singleton_inj.mp h

/-- The body of a frame in a buffer, part by part (30_encoding.md R91). -/
theorem body_parts {m : Memory} {i : Nat} {addr pay : List Octet} {ctrl pid : Octet} (haddr : addr.length = 14)
    (h : m.readRange i (16 + pay.length) = bodyOf addr ctrl pid pay) :
    m.readRange i 14 = addr ∧ m.read (i + 14) = ctrl ∧ m.read (i + 15) = pid ∧
    m.readRange (i + 16) pay.length = pay := by
  obtain ⟨hhead, hpay⟩ := Memory.readRange_append_inj h (by simp [haddr])
  obtain ⟨hctrls, hpid⟩ := Memory.readRange_append_inj (n := 15) (k := 1) hhead (by simp [haddr])
  obtain ⟨haddrs, hctrl⟩ := Memory.readRange_append_inj (n := 14) (k := 1) hctrls haddr
  exact ⟨haddrs, Memory.read_of_readRange_one hctrl, Memory.read_of_readRange_one hpid, hpay⟩

/-- A frame in a buffer, part by part: the leading flag, the body, the check octets, the trailing flag. -/
theorem frame_parts {m : Memory} {L : Bool} {body : List Octet}
    (h : m.readRange 0 (L.toNat + body.length + 2 + 1) = frameOctets L body) :
    m.readRange 0 L.toNat = leadingFlag L ∧ m.readRange L.toNat body.length = body ∧
    m.readRange (L.toNat + body.length) 2 = fcsOctets body ∧ m.read (L.toNat + body.length + 2) = flagOctet := by
  rw [← frameAround_eq_frameOctets, frameAround] at h
  obtain ⟨hfcs, hflag⟩ := Memory.readRange_append_inj h (by simp [length_leadingFlag, Nat.add_assoc])
  obtain ⟨hbody, hcheck⟩ := Memory.readRange_append_inj hfcs (by simp [length_leadingFlag])
  obtain ⟨hlead, hbody⟩ := Memory.readRange_append_inj hbody (length_leadingFlag L)
  rw [Nat.zero_add] at hbody hcheck hflag
  exact ⟨hlead, hbody, hcheck, Memory.read_of_readRange_one hflag⟩

/-- Settles O38: the frame left by the command, cut into its parts. -/
theorem frameLayout : Obligations.FrameLayout := by
  refine ⟨fun i L s t hi h hok => ?_, fun s t t' h h' => ?_⟩
  · obtain ⟨hlen, hframe, hfcsr⟩ := frame_of_exec_ok hi h hok
    have hbody : (bodyOf (addressField t) t.ctrl s.pid (payloadOctets s)).length = 16 + (payloadOctets s).length := by
      rw [length_bodyOf, length_addressField]
    have hpay : (payloadOctets s).length = s.paylen.toNat := length_payloadOctets s
    rw [← frameAround_eq_frameOctets, length_frameAround] at hlen
    rw [hlen] at hframe
    obtain ⟨hlead, hbodyRead, hcheck, hflag⟩ := frame_parts hframe
    obtain ⟨haddr, hctrl, hpid, hpayload⟩ := body_parts (length_addressField t) (hbody ▸ hbodyRead)
    rw [hpay] at hpayload
    have hcheckAt : t.frmlen.toNat - 3 =
        L.toNat + (bodyOf (addressField t) t.ctrl s.pid (payloadOctets s)).length := by omega
    have hflagAt : t.frmlen.toNat - 1 =
        L.toNat + (bodyOf (addressField t) t.ctrl s.pid (payloadOctets s)).length + 2 := by omega
    rw [hcheckAt, hflagAt, Nat.add_sub_cancel_left, hbodyRead]
    refine ⟨by omega, ?_, ?_, haddr, hctrl, hpid, hpayload, hcheck, hfcsr, hflag⟩
    · rintro rfl
      exact Memory.read_of_readRange_one hlead
    · rintro rfl
      exact (List.cons.inj haddr).1
  · obtain ⟨_, _, hlen, hframe⟩ := exec_asmfrm_frame h
    obtain ⟨_, _, hlen', hframe'⟩ := exec_asmfrm_frame h'
    rw [hframe, hframe', hlen, hlen']
    exact ⟨rfl, rfl⟩

/-! ### The worked frames -/

set_option maxRecDepth 20000 in
/-- Settles O40: the frames of two known bodies, evaluated. -/
theorem workedFrames : Obligations.WorkedFrames := by
  refine ⟨fun s haddr hctrl hpid hpay => ?_, fun s hdst hsrc hnr hns hpf hpid hpaylen => ?_⟩
  · obtain ⟨t, h, hstate, hlen, hframe, _⟩ := asmfrmWritesTheFrame.2 true s _ rfl
    rw [haddr, hctrl, hpid, hpay] at hstate hlen hframe
    have hfrmlen : t.frmlen = 25#10 := BitVec.eq_of_toNat_eq (hlen.trans (by decide))
    rw [hfrmlen] at hframe
    exact ⟨t, h, hfrmlen, by rw [hstate]; change crc16X25 _ = _; decide, hframe.trans (by decide)⟩
  · have hencodes := documentScenarios.1
    rw [← hdst, ← hsrc] at hencodes
    obtain ⟨t, h, hstate, haddr, _, hlen, hframe, _⟩ := mkfrmBuildsTheWholeFrame.2.1 true false false true s _ 0x00#8 _
      hencodes (by rw [hnr, hns, hpf]; rfl) rfl
    have hpay : s.payload.readRange 0 s.paylen.toNat = [] := payloadOctets_of_paylen_zero hpaylen
    rw [hpid, hpay] at hstate hlen hframe
    have hfrmlen : t.frmlen = 20#10 := BitVec.eq_of_toNat_eq (hlen.trans (by decide))
    rw [hfrmlen] at hframe
    exact ⟨t, h, by rw [hstate], by rw [hstate], by rw [hstate]; change crc16X25 _ = _; decide, hfrmlen, haddr,
      hframe.trans (by decide)⟩

/-! ### The three-command sequence -/

/-- A command's own word in the stream is that command. -/
theorem step_encode {s : State} {i : Instr} {rest : List HostAction}
    (h : s.pending = .cmd (encode i).toNat :: rest) : step s = exec i { s with pending := rest } := by
  refine (step_command (.inl h)).trans (runCommand_of_decode_some (encode i).isLt ?_ _)
  rw [BitVec.ofNat_toNat, BitVec.setWidth_eq, decode_encode]

/-- One step of a run that performs a command. -/
theorem run_encode {s t : State} {i : Instr} {rest : List HostAction} (k : Nat)
    (h : s.pending = .cmd (encode i).toNat :: rest) (hi : exec i { s with pending := rest } = .next t) :
    core.run (k + 1) s = core.run k t :=
  run_succ k ((step_encode h).trans hi)

theorem exec_control (X : Bool) (s : State) :
    exec (if X then .bldctlc else .bldctl) s = .next ((s.setCtrl (controlOctet X s)).setErr .ok) := by
  cases X <;> rfl

/-- ADDR read back after an address field was written to it. -/
theorem addressField_setAddr {dst src a : List Octet} {C M : Bool} (ha : encodeAddr dst src C M = some a) (s : State) :
    addressField (s.setAddr a) = a := by
  have hlen : Config.addrLen = a.length := (encodeAddr_some ha).1.symm
  rw [addressField, State.setAddr_addr, hlen, Memory.readRange_writeRange]

/-- The three commands one after another write what MKFRM writes (44_frame_assembler.md R197). -/
theorem makeFrame_eq_sequence {dst src a : List Octet} {C M : Bool} (ha : encodeAddr dst src C M = some a) (L X : Bool)
    (s : State) : exec (.asmfrm L) ((((s.setAddr a).setErr .ok).setCtrl (controlOctet X s)).setErr .ok) =
      .next ((makeFrame L X a s).setErr .ok) := by
  have hfield : addressField ((((s.setAddr a).setErr .ok).setCtrl (controlOctet X s)).setErr .ok) = a :=
    addressField_setAddr ha s
  rw [exec, execAsmfrm, complete_eq, hfield]
  rfl

/-- Settles O41: where the identifiers encode, both ways end in MKFRM's state; where one does not, in ENCADDR's, but for
FRMLEN. -/
theorem mkfrmEqualsTheSequence : Obligations.MkfrmEqualsTheSequence := by
  refine fun s rest L X M C => ⟨fun ⟨dcall, dn, hd⟩ ⟨scall, sn, hs⟩ => ?_, fun hinvalid => ?_⟩
  · have ha := encodeAddr_of_denotes C M hd hs
    refine ⟨_, run_encode 0 rfl (execMkfrm_some ha), rfl, ?_⟩
    refine Eq.trans (run_encode 2 rfl (execEncaddr_some ha)) (Eq.trans (run_encode 1 rfl (exec_control X _)) ?_)
    exact run_encode 0 rfl (makeFrame_eq_sequence ha L X { s with pending := rest })
  · have ha := encodeAddr_of_not_valid C M hinvalid
    exact ⟨_, run_encode 0 rfl (execEncaddr_none ha), rfl, run_encode 0 rfl (execMkfrm_none ha)⟩

/-! ### The reset state -/

theorem not_validIdentifier_nil : ¬ ValidIdentifier [] := fun h =>
  absurd (two_le_length_of_validIdentifier h) (by decide)

set_option maxRecDepth 20000 in
/-- Settles O3: both identifiers are empty, the session is 0, and the body is fifteen zeros and the reset PID. -/
theorem commandsFromTheResetState : Obligations.CommandsFromTheResetState := by
  obtain ⟨hparse, hencaddr, hmkfrm⟩ := failedCommandsLeaveTheirResults
  refine ⟨fun S => hparse S _ ?_, fun M C => hencaddr M C _ (.inl not_validIdentifier_nil),
    fun L X M C => hmkfrm L X M C _ (.inl not_validIdentifier_nil), rfl, rfl, rfl, ?_, ?_⟩
  · cases S <;> exact not_validIdentifier_nil
  · exact exec_fcs_of_body (S := true) (body := List.replicate 15 0x00#8 ++ [0xF0#8]) rfl (by decide)
  · obtain ⟨t, h, _, hlen, hframe, _⟩ :=
      asmfrmWritesTheFrame.2 false State.reset (List.replicate 15 0x00#8 ++ [0xF0#8]) rfl
    have hfrmlen : t.frmlen = 19#10 := BitVec.eq_of_toNat_eq (hlen.trans (by decide))
    rw [hfrmlen] at hframe
    exact ⟨t, h, hfrmlen, hframe.trans (by decide)⟩

end Sys2Proof.Machine
end

section
/-!
PROOFS. What the commands write and read, that repeating one changes nothing, and that octets beyond a length are not
read (10_state.md sections 2 and 4, 20_memory.md section 3).
-/

namespace Sys2Proof.Machine

/-! ### Write sets -/

/-- FRAME from the end of an assembled frame on stays (10_state.md R35). -/
theorem frame_beyond_asmFrame {addr pay : List Octet} (ctrl pid : Octet) (L : Bool) (haddr : addr.length = 14)
    (hpay : pay.length ≤ Config.payMax) (m : Memory) {k : Nat}
    (hk : (BitVec.ofNat Config.frmlenW (asmFrame addr ctrl pid pay L).1.length).toNat ≤ k) :
    (m.writeRange 0 (asmFrame addr ctrl pid pay L).1).read k = m.read k := by
  rw [toNat_frmlen (length_asmFrame_le ctrl pid L haddr hpay)] at hk
  exact Memory.read_writeRange_of_ge m _ hk

/-- Settles O43: each command's own writes. -/
theorem commandsWriteOnlyTheirWriteSet : Obligations.CommandsWriteOnlyTheirWriteSet := by
  intro i s t h
  have haddrs {a : List Octet} {dst src : List Octet} {C M : Bool} (ha : encodeAddr dst src C M = some a) (k : Nat)
      (hk : 14 ≤ k) : (s.addr.writeRange 0 a).read k = s.addr.read k :=
    Memory.read_writeRange_of_ge s.addr a (by rwa [(encodeAddr_some ha).1])
  cases i with
  | parse S =>
    obtain ⟨id, hid, rfl⟩ | ⟨_, rfl⟩ := exec_parse_cases h
    · refine ⟨rfl, fun k hk => Memory.read_writeRange_of_ge s.pcall _ ?_⟩
      rwa [length_pad6 (parse_some hid).2.1]
    · exact ⟨rfl, fun _ _ => rfl⟩
  | encaddr M C =>
    obtain ⟨a, ha, rfl⟩ | ⟨_, rfl⟩ := exec_encaddr_cases h
    · exact ⟨rfl, haddrs ha⟩
    · exact ⟨rfl, fun _ _ => rfl⟩
  | bldctl => cases h; rfl
  | bldctlc => cases h; rfl
  | fcs S => cases h; rfl
  | asmfrm L =>
    cases h
    exact ⟨rfl, fun _ => frame_beyond_asmFrame _ _ _ (length_addressField s) (length_payloadOctets_le s) s.frame⟩
  | mkfrm L X M C =>
    obtain ⟨a, ha, rfl⟩ | ⟨_, rfl⟩ := exec_mkfrm_cases h
    · exact ⟨rfl, haddrs ha,
        fun _ _ => frame_beyond_asmFrame _ _ _ (encodeAddr_some ha).1 (length_payloadOctets_le s) s.frame,
        fun hfail => absurd rfl hfail⟩
    · exact ⟨rfl, fun _ _ => rfl, fun hok => absurd hok (by simp), fun _ => rfl⟩

/-! ### Read sets -/

theorem controlOctet_congr {s u : State} (hnr : s.nr = u.nr) (hns : s.ns = u.ns) (hpf : s.pf = u.pf) (X : Bool) :
    controlOctet X s = controlOctet X u := by
  simp only [controlOctet, pollFinal, hnr, hns, hpf]

theorem frameBody_congr {s u : State} (haddr : addressField s = addressField u) (hctrl : s.ctrl = u.ctrl)
    (hpid : s.pid = u.pid) (hpay : payloadOctets s = payloadOctets u) : frameBody s = frameBody u := by
  simp only [frameBody, haddr, hctrl, hpid, hpay]

/-- A MKFRM that ends OK leaves the address field it encoded and the session's control octet in ADDR and CTRL, and the
frame of the body they make with PID and the payload. -/
theorem exec_mkfrm_results {L X M C : Bool} {s : State} {a : List Octet}
    (ha : encodeAddr (destination s) (source s) C M = some a) :
    ∃ t, exec (.mkfrm L X M C) s = .next t ∧ t.err = 0#2 ∧ addressField t = a ∧ t.ctrl = controlOctet X s ∧
      t.fcsr = crc16X25 (bodyOf a (controlOctet X s) s.pid (payloadOctets s)) ∧
      t.frmlen.toNat = (frameOctets L (bodyOf a (controlOctet X s) s.pid (payloadOctets s))).length ∧
      t.frame.readRange 0 t.frmlen.toNat = frameOctets L (bodyOf a (controlOctet X s) s.pid (payloadOctets s)) := by
  have haddr : addressField ((makeFrame L X a s).setErr .ok) = a := addressField_setAddr ha s
  obtain ⟨hlen, hframe, hfcsr⟩ := frame_of_exec_ok (.inr ⟨X, M, C, rfl⟩) (execMkfrm_some ha) rfl
  rw [haddr] at hlen hframe hfcsr
  exact ⟨_, execMkfrm_some ha, rfl, haddr, rfl, hfcsr, hlen, hframe⟩

/-- Settles O44: what each command leaves is a function of what it reads. -/
theorem commandsDependOnlyOnTheirReadSet : Obligations.CommandsDependOnlyOnTheirReadSet := by
  intro i s u s' u' hs hu hread
  cases i with
  | parse S =>
    obtain ⟨id, hid, rfl⟩ | ⟨hid, rfl⟩ := exec_parse_cases hs
    · obtain rfl := Host.Outcome.next.inj (hu.symm.trans (execParse_some (hread ▸ hid)))
      refine ⟨rfl, fun _ => ⟨rfl, ?_, rfl⟩⟩
      exact (setStation_reads hid s).2.1.trans (setStation_reads hid u).2.1.symm
    · obtain rfl := Host.Outcome.next.inj (hu.symm.trans (execParse_none (hread ▸ hid)))
      exact ⟨rfl, fun hok => absurd hok (by simp)⟩
  | encaddr M C =>
    obtain ⟨hdst, hsrc⟩ := hread
    obtain ⟨a, ha, rfl⟩ | ⟨ha, rfl⟩ := exec_encaddr_cases hs <;> have hau := ha <;> rw [hdst, hsrc] at hau
    · obtain rfl := Host.Outcome.next.inj (hu.symm.trans (execEncaddr_some hau))
      exact ⟨rfl, fun _ => (addressField_setAddr ha s).trans (addressField_setAddr ha u).symm⟩
    · obtain rfl := Host.Outcome.next.inj (hu.symm.trans (execEncaddr_none hau))
      exact ⟨rfl, fun hok => absurd hok (by simp)⟩
  | bldctl =>
    obtain ⟨hnr, hns, hpf⟩ := hread
    cases hs
    cases hu
    exact ⟨rfl, fun _ => controlOctet_congr hnr hns hpf false⟩
  | bldctlc =>
    obtain ⟨hnr, hns, hpf⟩ := hread
    cases hs
    cases hu
    exact ⟨rfl, fun _ => controlOctet_congr hnr hns hpf true⟩
  | fcs S =>
    have hbody : fcsBody S s = fcsBody S u := by
      cases S with
      | false => exact hread
      | true =>
        obtain ⟨haddr, hctrl, hpid, hpay⟩ := hread
        exact frameBody_congr haddr hctrl hpid hpay
    cases hs
    cases hu
    exact ⟨rfl, fun _ => congrArg crc16X25 hbody⟩
  | asmfrm L =>
    obtain ⟨haddr, hctrl, hpid, hpay⟩ := hread
    have hbody := frameBody_congr haddr hctrl hpid hpay
    obtain ⟨hserr, hsfcsr, hslen, hsframe⟩ := exec_asmfrm_frame hs
    obtain ⟨huerr, hufcsr, hulen, huframe⟩ := exec_asmfrm_frame hu
    rw [← hbody] at hufcsr hulen huframe
    exact ⟨hserr.trans huerr.symm, fun _ => ⟨hsfcsr.trans hufcsr.symm, BitVec.eq_of_toNat_eq (hslen.trans hulen.symm),
      hsframe.trans huframe.symm⟩⟩
  | mkfrm L X M C =>
    obtain ⟨hdst, hsrc, hnr, hns, hpf, hpid, hpay⟩ := hread
    cases ha : encodeAddr (destination s) (source s) C M with
    | some a =>
      obtain ⟨t, ht, hserr, hsaddr, hsctrl, hsfcsr, hslen, hsframe⟩ := exec_mkfrm_results (L := L) (X := X) ha
      obtain rfl := Host.Outcome.next.inj (hs.symm.trans ht)
      rw [hdst, hsrc] at ha
      obtain ⟨t, ht, huerr, huaddr, huctrl, hufcsr, hulen, huframe⟩ := exec_mkfrm_results (L := L) (X := X) ha
      obtain rfl := Host.Outcome.next.inj (hu.symm.trans ht)
      rw [← controlOctet_congr hnr hns hpf X] at huctrl
      rw [← controlOctet_congr hnr hns hpf X, ← hpid, ← hpay] at hufcsr hulen huframe
      exact ⟨hserr.trans huerr.symm, fun _ => ⟨hsaddr.trans huaddr.symm, hsctrl.trans huctrl.symm,
        hsfcsr.trans hufcsr.symm, BitVec.eq_of_toNat_eq (hslen.trans hulen.symm), hsframe.trans huframe.symm⟩⟩
    | none =>
      obtain rfl := Host.Outcome.next.inj (hs.symm.trans (execMkfrm_none ha))
      rw [hdst, hsrc] at ha
      obtain rfl := Host.Outcome.next.inj (hu.symm.trans (execMkfrm_none ha))
      exact ⟨rfl, fun hok => absurd hok (by simp)⟩

/-! ### Repetition -/

theorem storeFrame_storeFrame {s : State} (h : s.frame.wf) (r : List Octet × Word16) :
    (((s.storeFrame r).setErr .ok).storeFrame r).setErr .ok = (s.storeFrame r).setErr .ok := by
  simp only [State.storeFrame, State.setFrame, State.setFcsr, State.setErr, Memory.writeRange_writeRange h]

theorem setStation_setStation {s : State} (h : s.pcall.wf) (k n : Nat) (p : List Octet) :
    (((s.setStation k p n).setErr .ok).setStation k p n).setErr .ok = (s.setStation k p n).setErr .ok := by
  simp only [State.setStation, State.setErr, Memory.writeRange_writeRange h]

theorem setAddr_setAddr {s : State} (h : s.addr.wf) (a : List Octet) :
    (((s.setAddr a).setErr .ok).setAddr a).setErr .ok = (s.setAddr a).setErr .ok := by
  simp only [State.setAddr, State.setErr, Memory.writeRange_writeRange h]

/-- MKFRM's writes made twice, with the values of the first time. -/
theorem mkfrm_writes_twice {s : State} (haddr : s.addr.wf) (hframe : s.frame.wf) (a : List Octet) (c : Octet)
    (r : List Octet × Word16) :
    ((((((s.setAddr a).setCtrl c).storeFrame r).setErr .ok).setAddr a).setCtrl c).storeFrame r =
      (((s.setAddr a).setCtrl c).storeFrame r).setErr .ok := by
  simp only [State.setAddr, State.setCtrl, State.storeFrame, State.setFrame, State.setFcsr, State.setErr,
    Memory.writeRange_writeRange haddr, Memory.writeRange_writeRange hframe]

/-- A command leaves the operand registers (10_state.md R38), and so what it reads of them. -/
theorem exec_keeps_reads {i : Instr} {s t : State} (h : exec i s = .next t) :
    destination t = destination s ∧ source t = source s ∧ payloadOctets t = payloadOctets s ∧ t.pid = s.pid ∧
    ∀ X, controlOctet X t = controlOctet X s := by
  have hkept := exec_keeps_operands h
  simp only [State.operands, Prod.mk.injEq] at hkept
  obtain ⟨hdstlen, hdstid, hsrclen, hsrcid, hnr, hns, hpf, hpid, hpaylen, hpayload⟩ := hkept
  refine ⟨?_, ?_, ?_, hpid, controlOctet_congr hnr hns hpf⟩
  · rw [destination, hdstid, hdstlen, destination]
  · rw [source, hsrcid, hsrclen, source]
  · rw [payloadOctets, hpayload, hpaylen, payloadOctets]

/-- Settles O46: a command leaves what it reads, or writes what it has read from it, and writing a sequence twice is
writing it once. -/
theorem repeatingACommandChangesNothing : Obligations.RepeatingACommandChangesNothing := by
  rintro i s t ⟨_, _, _, ⟨haddr, _⟩, ⟨hframe, _⟩, ⟨hpcall, _⟩⟩ h
  obtain ⟨hdst, hsrc, hpay, hpid, hcontrol⟩ := exec_keeps_reads h
  cases i with
  | parse S =>
    have hsame : identifier S t = identifier S s := by rw [identifier, hdst, hsrc, identifier]
    obtain ⟨id, hid, ht⟩ | ⟨hid, ht⟩ := exec_parse_cases h <;> rw [← hsame] at hid
    · refine (execParse_some hid).trans (congrArg Host.Outcome.next ?_)
      rw [ht, setStation_setStation hpcall]
    · refine (execParse_none hid).trans (congrArg Host.Outcome.next ?_)
      rw [ht]
      rfl
  | encaddr M C =>
    obtain ⟨a, ha, ht⟩ | ⟨ha, ht⟩ := exec_encaddr_cases h <;> rw [← hdst, ← hsrc] at ha
    · refine (execEncaddr_some ha).trans (congrArg Host.Outcome.next ?_)
      rw [ht, setAddr_setAddr haddr]
    · refine (execEncaddr_none ha).trans (congrArg Host.Outcome.next ?_)
      rw [ht]
      rfl
  | bldctl => cases h; rfl
  | bldctlc => cases h; rfl
  | fcs S => cases h; rfl
  | asmfrm L =>
    cases h
    exact congrArg Host.Outcome.next (storeFrame_storeFrame hframe _)
  | mkfrm L X M C =>
    obtain ⟨a, ha, ht⟩ | ⟨ha, ht⟩ := exec_mkfrm_cases h <;> rw [← hdst, ← hsrc] at ha
    · refine (execMkfrm_some ha).trans (congrArg Host.Outcome.next ?_)
      rw [makeFrame, hcontrol, hpid, hpay, ht, makeFrame, mkfrm_writes_twice haddr hframe]
      rfl
    · refine (execMkfrm_none ha).trans (congrArg Host.Outcome.next ?_)
      rw [ht]
      rfl

/-! ### Octets beyond a length -/

theorem Memory.readRange_write_of_le {m : Memory} {n k : Nat} (b : Octet) (h : n ≤ k) :
    (m.write k b).readRange 0 n = m.readRange 0 n :=
  Memory.readRange_congr fun j hj => Memory.read_write_of_ne m b (by omega)

theorem exec_asmfrm (L : Bool) (s : State) : exec (.asmfrm L) s =
    .next ((s.storeFrame (asmFrame (addressField s) s.ctrl s.pid (payloadOctets s) L)).setErr .ok) := rfl

/-- The state with other contents of the three buffers the host gives a length. -/
def State.withOperandBuffers (d r p : Memory) (s : State) : State := { s with dstid := d, srcid := r, payload := p }

/-- A command reads of these buffers only the octets below the lengths, and writes none of them. -/
theorem exec_withOperandBuffers {i : Instr} {s t : State} {d r p : Memory} (h : exec i s = .next t)
    (hdst : destination (s.withOperandBuffers d r p) = destination s)
    (hsrc : source (s.withOperandBuffers d r p) = source s)
    (hpay : payloadOctets (s.withOperandBuffers d r p) = payloadOctets s) :
    exec i (s.withOperandBuffers d r p) = .next (t.withOperandBuffers d r p) := by
  cases i with
  | parse S =>
    have hid : identifier S (s.withOperandBuffers d r p) = identifier S s := by
      cases S
      · exact hdst
      · exact hsrc
    obtain ⟨id, hp, rfl⟩ | ⟨hp, rfl⟩ := exec_parse_cases h <;> rw [← hid] at hp
    · exact execParse_some hp
    · exact execParse_none hp
  | encaddr M C =>
    obtain ⟨a, ha, rfl⟩ | ⟨ha, rfl⟩ := exec_encaddr_cases h <;> rw [← hdst, ← hsrc] at ha
    · exact execEncaddr_some ha
    · exact execEncaddr_none ha
  | bldctl => cases h; rfl
  | bldctlc => cases h; rfl
  | fcs S =>
    have hbody : fcsBody S (s.withOperandBuffers d r p) = fcsBody S s := by
      cases S
      · exact hpay
      · exact frameBody_congr rfl rfl rfl hpay
    cases h
    exact exec_fcs_of_body hbody rfl
  | asmfrm L =>
    cases h
    rw [exec_asmfrm, hpay]
    rfl
  | mkfrm L X M C =>
    obtain ⟨a, ha, rfl⟩ | ⟨ha, rfl⟩ := exec_mkfrm_cases h <;> rw [← hdst, ← hsrc] at ha
    · refine (execMkfrm_some ha).trans ?_
      rw [makeFrame, hpay]
      rfl
    · exact execMkfrm_none ha

/-- No command reads FRAME, and one that writes it writes the same octets whatever stood there. -/
theorem exec_withFrame {i : Instr} {s t : State} (m : Memory) (h : exec i s = .next t) :
    ∃ m', exec i { s with frame := m } = .next { t with frame := m' } ∧
      ∀ k, t.frmlen.toNat ≤ k → m'.read k = m.read k := by
  cases i with
  | parse S =>
    obtain ⟨id, hid, rfl⟩ | ⟨hid, rfl⟩ := exec_parse_cases h
    · exact ⟨m, execParse_some (s := { s with frame := m }) hid, fun _ _ => rfl⟩
    · exact ⟨m, execParse_none (s := { s with frame := m }) hid, fun _ _ => rfl⟩
  | encaddr M C =>
    obtain ⟨a, ha, rfl⟩ | ⟨ha, rfl⟩ := exec_encaddr_cases h
    · exact ⟨m, execEncaddr_some (s := { s with frame := m }) ha, fun _ _ => rfl⟩
    · exact ⟨m, execEncaddr_none (s := { s with frame := m }) ha, fun _ _ => rfl⟩
  | bldctl => cases h; exact ⟨m, rfl, fun _ _ => rfl⟩
  | bldctlc => cases h; exact ⟨m, rfl, fun _ _ => rfl⟩
  | fcs S => cases h; exact ⟨m, rfl, fun _ _ => rfl⟩
  | asmfrm L =>
    cases h
    exact ⟨_, rfl, fun _ => frame_beyond_asmFrame _ _ _ (length_addressField s) (length_payloadOctets_le s) m⟩
  | mkfrm L X M C =>
    obtain ⟨a, ha, rfl⟩ | ⟨ha, rfl⟩ := exec_mkfrm_cases h
    · exact ⟨_, execMkfrm_some (s := { s with frame := m }) ha,
        fun _ => frame_beyond_asmFrame _ _ _ (encodeAddr_some ha).1 (length_payloadOctets_le s) m⟩
    · exact ⟨m, execMkfrm_none (s := { s with frame := m }) ha, fun _ _ => rfl⟩

theorem exec_keeps_operandBuffers {i : Instr} {s t : State} (h : exec i s = .next t) (d r p : Memory) :
    t.withOperandBuffers d s.srcid s.payload = { t with dstid := d } ∧
    t.withOperandBuffers s.dstid r s.payload = { t with srcid := r } ∧
    t.withOperandBuffers s.dstid s.srcid p = { t with payload := p } := by
  have hkept := exec_keeps_operands h
  simp only [State.operands, Prod.mk.injEq] at hkept
  obtain ⟨_, hdst, _, hsrc, _, _, _, _, _, hpay⟩ := hkept
  simp only [State.withOperandBuffers, ← hdst, ← hsrc, ← hpay, and_self]

/-- Settles O47: an octet written at or beyond a length is outside what the operand is read from; the host's accesses go
by their own equations. -/
theorem octetsBeyondTheLengthAreNotRead : Obligations.OctetsBeyondTheLengthAreNotRead := by
  refine ⟨fun i s t k b h hk => ?_, fun i s t k b h hk => ?_, fun i s t k b h hk => ?_,
    fun _ _ _ m h => exec_withFrame m h, fun s rest k => ⟨?_, ?_, ?_, ?_⟩, fun s rest v => ⟨?_, ?_, ?_⟩⟩
  · rw [← (exec_keeps_operandBuffers h _ [] []).1]
    exact exec_withOperandBuffers h (Memory.readRange_write_of_le b hk) rfl rfl
  · rw [← (exec_keeps_operandBuffers h [] _ []).2.1]
    exact exec_withOperandBuffers h rfl (Memory.readRange_write_of_le b hk) rfl
  · rw [← (exec_keeps_operandBuffers h [] [] _).2.2]
    exact exec_withOperandBuffers h rfl rfl (Memory.readRange_write_of_le b hk)
  · exact step_rdOctet (r := .dstid) rfl rfl
  · exact step_rdOctet (r := .srcid) rfl rfl
  · exact step_rdOctet (r := .payload) rfl rfl
  · exact step_rdOctet (r := .frame) rfl rfl
  · exact step_wr_scalar (r := .dstlen) rfl rfl
  · exact step_wr_scalar (r := .srclen) rfl rfl
  · exact step_wr_scalar (r := .paylen) rfl rfl

end Sys2Proof.Machine
end
